-- ==== Sys2Proof/Word.lean ====
section
/-! DEFINITION. The two word types of the B16: a byte (one narrow data path, one base-memory cell) and a 16-bit
word (a wide data path, a tag, a two-byte message field). -/

namespace Sys2Proof

/-- Eight bits: a byte of base memory, of a message, of the low half of the data lines. -/
abbrev Byte := BitVec 8

/-- Sixteen bits: the value of an element of either width (width 1 uses the low eight), a tag. -/
abbrev Word := BitVec 16

end Sys2Proof
end

