-- ==== Sys2Proof/Config.lean ====
section
/-! DEFINITION. What is fixed for the part (the principal numbers of 00_scope.md) and the free values: constants
without a body, so that no proof can depend on what they are. -/

namespace Sys2Proof.Config

/-- Base memory holds 1,048,576 bytes at offsets 0x00000-0xFFFFF (R38). -/
def memorySize : Nat := 1048576

/-- The request queue never holds more than 32 entries (R48). -/
def queueCapacity : Nat := 32

/-- The longest message (R163). -/
def maxMessage : Nat := 1100

/-- The refresh period after power-on and part reset, in microseconds (R36). -/
def defaultRefreshPeriod : Nat := 15

/-- The default ready timeout, in microseconds (R14, R15, R121). -/
def defaultReadyTimeout : Nat := 16

/-- Strobe clocks in one microsecond at the 8 MHz slot clock (00_scope.md, Time). -/
def clocksPerMicrosecond : Nat := 8

/-- FREE VALUE (log 6): where the manual lets either of two things that come together be taken first (R26, R28,
R41), the n-th such choice of a run goes by `freeOrder n`. -/
opaque freeOrder : Nat → Bool

/-- FREE VALUE (log 15): the value field that a merged WATCH notice carries for entry `slot` of its changed set when the
snapshot of pass `pass` holds nothing for that entry (R149 gives none). -/
opaque unheldWatchValue : (pass slot : Nat) → Word

/-- FREE VALUE (log 15): the fault-kind byte that such a notice carries for such an entry (R149 gives none). -/
opaque unheldWatchFault : (pass slot : Nat) → Byte

end Sys2Proof.Config
end

