-- ==== Sys2Proof/Syntax.lean ====
section
/-! DEFINITION. The commands of the block: one constructor of `Instr` for each row of spec/opcode_table.json, and the
request messages of R174 as the host writes them (raw fields at the widths of the layout tables, so that a field that
is out of its range can be sent and refused). -/

namespace Sys2Proof

/-! ## Status codes (11 R174, Codes) -/

/-- The status codes of replies; the fail kinds of elements, channels and watch reads are among them. -/
inductive Status where
  | ok | badKind | badLength | badField | queueFull | duplicateTag | busy | state | notFound | tooLate | overlap
  | windowBlocked | writeProtected | readyTimeout | channelCheck | range | dmaAddress | timeout | cancelled | flushed
  deriving DecidableEq, Repr

/-! ## Request bodies (11 R174, layouts) -/

/-- WindowSet: 13 bytes. -/
structure WindowFields where
  entry : Byte
  space : Byte
  base : BitVec 24
  limit : BitVec 24
  owner : Byte
  width : Byte
  waitCount : Byte
  readyTimeout : Byte
  writeProtect : Byte
  deriving DecidableEq, Repr

/-- ChannelSet: 9 bytes. -/
structure ChannelFields where
  channel : Byte
  enable : Byte
  direction : Byte
  width : Byte
  mode : Byte
  endMode : Byte
  waitCount : Byte
  readyTimeout : Byte
  tenureLimit : Byte
  deriving DecidableEq, Repr

/-- ChannelStage: 9 bytes. -/
structure StageFields where
  channel : Byte
  offset : BitVec 24
  count : BitVec 32
  step : Byte
  deriving DecidableEq, Repr

/-- The card side of a Read, Write or Modify: space 1, address 3, width 1. -/
structure CardFields where
  space : Byte
  address : BitVec 24
  width : Byte
  deriving DecidableEq, Repr

/-- Transfer: 16 bytes before the data of INLINE OUT. -/
structure TransferFields where
  direction : Byte
  space : Byte
  address : BitVec 24
  cardStep : Byte
  width : Byte
  count : BitVec 32
  side : Byte
  offset : BitVec 24
  memoryStep : Byte
  deriving DecidableEq, Repr

/-- Scan: 21 bytes. -/
structure ScanFields where
  space : Byte
  address : BitVec 24
  step : Byte
  width : Byte
  count : BitVec 32
  condition : Byte
  operand : Word
  mask : Word
  interval : Word
  capturePresent : Byte
  capture : BitVec 24
  deriving DecidableEq, Repr

/-- Compare: 17 bytes. -/
structure CompareFields where
  space : Byte
  address : BitVec 24
  cardStep : Byte
  width : Byte
  offset : BitVec 24
  memoryStep : Byte
  count : BitVec 32
  condition : Byte
  mask : Word
  deriving DecidableEq, Repr

/-- The action of a LineSet: kind 0 for none, else the code of Read to Scan and that kind's body; any other kind byte
is carried as it came and refused by the interrupt unit (R116). -/
inductive ActionFields where
  | absent
  | read (c : CardFields)
  | write (c : CardFields) (value : Word)
  | modify (c : CardFields) (andMask orMask : Word)
  | transfer (f : TransferFields)
  | scan (f : ScanFields)
  | unlisted (kind : Byte)
  deriving DecidableEq, Repr

/-- LineSet: 5 bytes and the body of the action's kind. -/
structure LineFields where
  line : Byte
  role : Byte
  mode : Byte
  service : Byte
  action : ActionFields
  deriving DecidableEq, Repr

/-- One entry slot of a WatchSet: 9 bytes. -/
structure WatchSlotFields where
  valid : Byte
  space : Byte
  address : BitVec 24
  width : Byte
  mask : Word
  report : Byte
  deriving DecidableEq, Repr

/-- WatchSet: 76 bytes. -/
structure WatchFields where
  mode : Byte
  interval : Word
  trigger : Byte
  slots : Vector WatchSlotFields 8
  deriving DecidableEq, Repr

/-- The body of a request: its kind and the fixed part of its layout. -/
inductive RequestBody where
  | identify
  | statusGet
  | partReset
  | windowSet (f : WindowFields)
  | windowClear (entry : Byte)
  | windowList
  | memoryRead (offset : BitVec 24) (length : Word)
  | memoryWrite (offset : BitVec 24)
  | memoryFill (offset length : BitVec 24) (pattern : Byte)
  | refreshSet (period clearLate : Byte)
  | channelSet (f : ChannelFields)
  | channelStage (f : StageFields)
  | channelQuiesce (channel : Byte)
  | lineSet (f : LineFields)
  | lineEnd (line : Byte)
  | watchSet (f : WatchFields)
  | watchStart
  | watchStop
  | watchRead
  | queuePause
  | queueResume
  | queueFlush
  | queueCancel (target : Word)
  | read (c : CardFields)
  | write (c : CardFields) (value : Word)
  | modify (c : CardFields) (andMask orMask : Word)
  | transfer (f : TransferFields)
  | scan (f : ScanFields)
  | compare (f : CompareFields)
  | delay (duration : BitVec 32)
  | await (source : Byte) (timeout : Word)
  | slotReset (duration : Word)
  deriving DecidableEq, Repr

/-- A request transfer that has passed framing: its tag, its body and the data bytes beyond the fixed part (R163). -/
structure HostRequest where
  tag : Word
  body : RequestBody
  data : List Byte
  deriving DecidableEq, Repr

/-! ## Commands -/

/-- The two address spaces of the slot bus (01, 1.1). -/
inductive Space where
  | memory
  | io
  deriving DecidableEq, Repr

/-- Whose interval timer a SCAN_INTERVAL_EXPIRY is: the ACTIVE entry's (R92) or the action's in hand (R101). -/
inductive ScanOwner where
  | entry
  | action
  deriving DecidableEq, Repr

/-- The commands and events of the block, one constructor for each row of the table, in the table's order. -/
inductive Instr where
  | identify (tag : Word) (data : List Byte)
  | statusGet (tag : Word) (data : List Byte)
  | partReset (tag : Word) (data : List Byte)
  | partResetEnd
  | windowSet (tag : Word) (f : WindowFields) (data : List Byte)
  | windowClear (tag : Word) (entry : Byte) (data : List Byte)
  | windowList (tag : Word) (data : List Byte)
  | memoryRead (tag : Word) (offset : BitVec 24) (length : Word) (data : List Byte)
  | memoryWrite (tag : Word) (offset : BitVec 24) (data : List Byte)
  | memoryFill (tag : Word) (offset length : BitVec 24) (pattern : Byte) (data : List Byte)
  | refreshSet (tag : Word) (period clearLate : Byte) (data : List Byte)
  | channelSet (tag : Word) (f : ChannelFields) (data : List Byte)
  | channelStage (tag : Word) (f : StageFields) (data : List Byte)
  | channelQuiesce (tag : Word) (channel : Byte) (data : List Byte)
  | lineSet (tag : Word) (f : LineFields) (data : List Byte)
  | lineEnd (tag : Word) (line : Byte) (data : List Byte)
  | watchSet (tag : Word) (f : WatchFields) (data : List Byte)
  | watchStart (tag : Word) (data : List Byte)
  | watchStop (tag : Word) (data : List Byte)
  | watchRead (tag : Word) (data : List Byte)
  | queuePause (tag : Word) (data : List Byte)
  | queueResume (tag : Word) (data : List Byte)
  | queueFlush (tag : Word) (data : List Byte)
  | queueCancel (tag : Word) (target : Word) (data : List Byte)
  | read (tag : Word) (c : CardFields) (data : List Byte)
  | write (tag : Word) (c : CardFields) (value : Word) (data : List Byte)
  | modify (tag : Word) (c : CardFields) (andMask orMask : Word) (data : List Byte)
  | transfer (tag : Word) (f : TransferFields) (data : List Byte)
  | scan (tag : Word) (f : ScanFields) (data : List Byte)
  | compare (tag : Word) (f : CompareFields) (data : List Byte)
  | delay (tag : Word) (duration : BitVec 32) (data : List Byte)
  | await (tag : Word) (source : Byte) (timeout : Word) (data : List Byte)
  | slotReset (tag : Word) (duration : Word) (data : List Byte)
  /-- A request-pipe transfer, byte by byte, that fails a check of R163. -/
  | requestRefusedAtFraming (transfer : List Byte)
  | reportTransferComplete
  | linkReset
  | linkConfigured
  /-- The levels SFAULT, SINT0-7 and SREQ0-3 have at the end of power-on (R8, R103). -/
  | powerOn (sfault : Bool) (sint : BitVec 8) (sreq : BitVec 4)
  | powerOnSresetEnd
  | startUpFillDone
  /-- SWAIT as sampled at each further strobe clock of the cycle in progress, then SWIDE and the sixteen data lines at
  the cycle's end (R4, R11, R10). -/
  | cycleEnd (swait : List Bool) (swide : Bool) (lines : Word)
  /-- SWAIT as sampled at each further strobe clock, the last of them the clock at which the timeout is exceeded. -/
  | readyTimeoutExpiry (swait : List Bool)
  | sfaultRise
  | memoryTurnEnd
  /-- The space, address and direction of a bus master's cycle, and SHIGH at its address phase (R18). -/
  | masterCycleAddressPhase (space : Space) (address : BitVec 24) (shigh : Bool) (isWrite : Bool)
  | masterStrobeRelease
  | handbackTimeout
  | refreshTimerExpiry
  | delayExpiry
  | awaitTimeout
  | scanIntervalExpiry (who : ScanOwner)
  | slotResetExpiry
  | sreqAssert (n : Fin 4)
  | sreqDeassert (n : Fin 4)
  | cascadeTenureExpiry (n : Fin 4)
  | sintRise (n : Fin 8)
  | watchRestExpiry
  | sfaultFall
  | sintFall (n : Fin 8)
  /-- The data lines as the master drives them on a write (R42). -/
  | masterStrobeAssert (lines : Word)
  deriving DecidableEq, Repr

/-- The request a command is, for the rows that are host requests. -/
def Instr.request? : Instr → Option HostRequest
  | .identify t d => some ⟨t, .identify, d⟩
  | .statusGet t d => some ⟨t, .statusGet, d⟩
  | .partReset t d => some ⟨t, .partReset, d⟩
  | .windowSet t f d => some ⟨t, .windowSet f, d⟩
  | .windowClear t e d => some ⟨t, .windowClear e, d⟩
  | .windowList t d => some ⟨t, .windowList, d⟩
  | .memoryRead t o l d => some ⟨t, .memoryRead o l, d⟩
  | .memoryWrite t o d => some ⟨t, .memoryWrite o, d⟩
  | .memoryFill t o l p d => some ⟨t, .memoryFill o l p, d⟩
  | .refreshSet t p c d => some ⟨t, .refreshSet p c, d⟩
  | .channelSet t f d => some ⟨t, .channelSet f, d⟩
  | .channelStage t f d => some ⟨t, .channelStage f, d⟩
  | .channelQuiesce t c d => some ⟨t, .channelQuiesce c, d⟩
  | .lineSet t f d => some ⟨t, .lineSet f, d⟩
  | .lineEnd t l d => some ⟨t, .lineEnd l, d⟩
  | .watchSet t f d => some ⟨t, .watchSet f, d⟩
  | .watchStart t d => some ⟨t, .watchStart, d⟩
  | .watchStop t d => some ⟨t, .watchStop, d⟩
  | .watchRead t d => some ⟨t, .watchRead, d⟩
  | .queuePause t d => some ⟨t, .queuePause, d⟩
  | .queueResume t d => some ⟨t, .queueResume, d⟩
  | .queueFlush t d => some ⟨t, .queueFlush, d⟩
  | .queueCancel t g d => some ⟨t, .queueCancel g, d⟩
  | .read t c d => some ⟨t, .read c, d⟩
  | .write t c v d => some ⟨t, .write c v, d⟩
  | .modify t c a o d => some ⟨t, .modify c a o, d⟩
  | .transfer t f d => some ⟨t, .transfer f, d⟩
  | .scan t f d => some ⟨t, .scan f, d⟩
  | .compare t f d => some ⟨t, .compare f, d⟩
  | .delay t u d => some ⟨t, .delay u, d⟩
  | .await t g m d => some ⟨t, .await g m, d⟩
  | .slotReset t u d => some ⟨t, .slotReset u, d⟩
  | .partResetEnd => none
  | .requestRefusedAtFraming _ => none
  | .reportTransferComplete => none
  | .linkReset => none
  | .linkConfigured => none
  | .powerOn _ _ _ => none
  | .powerOnSresetEnd => none
  | .startUpFillDone => none
  | .cycleEnd _ _ _ => none
  | .readyTimeoutExpiry _ => none
  | .sfaultRise => none
  | .memoryTurnEnd => none
  | .masterCycleAddressPhase _ _ _ _ => none
  | .masterStrobeRelease => none
  | .handbackTimeout => none
  | .refreshTimerExpiry => none
  | .delayExpiry => none
  | .awaitTimeout => none
  | .scanIntervalExpiry _ => none
  | .slotResetExpiry => none
  | .sreqAssert _ => none
  | .sreqDeassert _ => none
  | .cascadeTenureExpiry _ => none
  | .sintRise _ => none
  | .watchRestExpiry => none
  | .sfaultFall => none
  | .sintFall _ => none
  | .masterStrobeAssert _ => none

end Sys2Proof
end

