-- ==== Sys2Proof/WellFormed.lean ====
section
/-! DEFINITION. Which terms of `Instr` are commands the outside can send: a message no longer than the link carries
(R163), an action kind byte that is not one of the listed kinds spelled as unlisted (R174), an I/O address inside the
I/O space (01, 1.1). The machine is total on ill-formed terms as well. -/

namespace Sys2Proof

/-- Bytes of an action's body (R174). -/
def ActionFields.size : ActionFields → Nat
  | .absent => 0
  | .read _ => 5
  | .write _ _ => 7
  | .modify _ _ _ => 9
  | .transfer _ => 16
  | .scan _ => 21
  | .unlisted _ => 0

/-- Bytes of the fixed part of a request's body (R174). -/
def RequestBody.size : RequestBody → Nat
  | .identify => 0
  | .statusGet => 0
  | .partReset => 0
  | .windowSet _ => 13
  | .windowClear _ => 1
  | .windowList => 0
  | .memoryRead _ _ => 5
  | .memoryWrite _ => 3
  | .memoryFill _ _ _ => 7
  | .refreshSet _ _ => 2
  | .channelSet _ => 9
  | .channelStage _ => 9
  | .channelQuiesce _ => 1
  | .lineSet f => 5 + f.action.size
  | .lineEnd _ => 1
  | .watchSet _ => 76
  | .watchStart => 0
  | .watchStop => 0
  | .watchRead => 0
  | .queuePause => 0
  | .queueResume => 0
  | .queueFlush => 0
  | .queueCancel _ => 2
  | .read _ => 5
  | .write _ _ => 7
  | .modify _ _ _ => 9
  | .transfer _ => 16
  | .scan _ => 21
  | .compare _ => 17
  | .delay _ => 4
  | .await _ _ => 3
  | .slotReset _ => 2

/-- Bytes of the whole message: header, fixed part, data bytes (R174). -/
def HostRequest.length (r : HostRequest) : Nat := 6 + r.body.size + r.data.length

/-- An action spelled as unlisted has a kind byte that is none of 0 and the codes of Read to Scan (R174). -/
def ActionFields.wf : ActionFields → Bool
  | .unlisted k => !(k == 0x00 || k == 0x50 || k == 0x51 || k == 0x52 || k == 0x53 || k == 0x54)
  | .absent => true
  | .read _ => true
  | .write _ _ => true
  | .modify _ _ _ => true
  | .transfer _ => true
  | .scan _ => true

/-- A body whose action, if it has one, is well formed. -/
def RequestBody.wf : RequestBody → Bool
  | .lineSet f => f.action.wf
  | _ => true

/-- A request that passes framing: no longer than 1100 bytes, its action spelled by its kind. -/
def HostRequest.wf (r : HostRequest) : Bool := decide (r.length ≤ Config.maxMessage) && r.body.wf

/-- The well-formed commands. -/
def Instr.wf (i : Instr) : Bool :=
  match i.request? with
  | some r => r.wf
  | none =>
    match i with
    | .masterCycleAddressPhase .io a _ _ => decide (a.toNat < 65536)
    | _ => true

end Sys2Proof
end

