-- ==== Sys2Proof/Decode.lean ====
section
/-! DEFINITION. The request decoder of the link interface: the framing checks of R163 over the layouts of R174, and
the encoder that lays a request out. `decodeTableWord` stands here too: no row of the table gives bits. -/

namespace Sys2Proof

/-! ## Bytes of a field, little-endian (R174) -/

def bytes2 (x : Word) : List Byte := [x.extractLsb' 0 8, x.extractLsb' 8 8]

def bytes3 (x : BitVec 24) : List Byte := [x.extractLsb' 0 8, x.extractLsb' 8 8, x.extractLsb' 16 8]

def bytes4 (x : BitVec 32) : List Byte :=
  [x.extractLsb' 0 8, x.extractLsb' 8 8, x.extractLsb' 16 8, x.extractLsb' 24 8]

/-! ## Reading a field off the front of a body -/

def take1 : List Byte → Option (Byte × List Byte)
  | b0 :: l => some (b0, l)
  | _ => none

def take2 : List Byte → Option (Word × List Byte)
  | b0 :: b1 :: l => some (b1 ++ b0, l)
  | _ => none

def take3 : List Byte → Option (BitVec 24 × List Byte)
  | b0 :: b1 :: b2 :: l => some (b2 ++ b1 ++ b0, l)
  | _ => none

def take4 : List Byte → Option (BitVec 32 × List Byte)
  | b0 :: b1 :: b2 :: b3 :: l => some (b3 ++ b2 ++ b1 ++ b0, l)
  | _ => none

/-! ## Fixed parts, one reader and one writer for each layout -/

def takeWindow (l : List Byte) : Option (WindowFields × List Byte) := do
  let (entry, l) ← take1 l
  let (space, l) ← take1 l
  let (base, l) ← take3 l
  let (limit, l) ← take3 l
  let (owner, l) ← take1 l
  let (width, l) ← take1 l
  let (waitCount, l) ← take1 l
  let (readyTimeout, l) ← take1 l
  let (writeProtect, l) ← take1 l
  some (⟨entry, space, base, limit, owner, width, waitCount, readyTimeout, writeProtect⟩, l)

def WindowFields.bytes (f : WindowFields) : List Byte :=
  [f.entry, f.space] ++ bytes3 f.base ++ bytes3 f.limit ++
    [f.owner, f.width, f.waitCount, f.readyTimeout, f.writeProtect]

def takeChannel (l : List Byte) : Option (ChannelFields × List Byte) := do
  let (channel, l) ← take1 l
  let (enable, l) ← take1 l
  let (direction, l) ← take1 l
  let (width, l) ← take1 l
  let (mode, l) ← take1 l
  let (endMode, l) ← take1 l
  let (waitCount, l) ← take1 l
  let (readyTimeout, l) ← take1 l
  let (tenureLimit, l) ← take1 l
  some (⟨channel, enable, direction, width, mode, endMode, waitCount, readyTimeout, tenureLimit⟩, l)

def ChannelFields.bytes (f : ChannelFields) : List Byte :=
  [f.channel, f.enable, f.direction, f.width, f.mode, f.endMode, f.waitCount, f.readyTimeout, f.tenureLimit]

def takeStage (l : List Byte) : Option (StageFields × List Byte) := do
  let (channel, l) ← take1 l
  let (offset, l) ← take3 l
  let (count, l) ← take4 l
  let (step, l) ← take1 l
  some (⟨channel, offset, count, step⟩, l)

def StageFields.bytes (f : StageFields) : List Byte :=
  [f.channel] ++ bytes3 f.offset ++ bytes4 f.count ++ [f.step]

def takeCard (l : List Byte) : Option (CardFields × List Byte) := do
  let (space, l) ← take1 l
  let (address, l) ← take3 l
  let (width, l) ← take1 l
  some (⟨space, address, width⟩, l)

def CardFields.bytes (c : CardFields) : List Byte := [c.space] ++ bytes3 c.address ++ [c.width]

def takeTransfer (l : List Byte) : Option (TransferFields × List Byte) := do
  let (direction, l) ← take1 l
  let (space, l) ← take1 l
  let (address, l) ← take3 l
  let (cardStep, l) ← take1 l
  let (width, l) ← take1 l
  let (count, l) ← take4 l
  let (side, l) ← take1 l
  let (offset, l) ← take3 l
  let (memoryStep, l) ← take1 l
  some (⟨direction, space, address, cardStep, width, count, side, offset, memoryStep⟩, l)

def TransferFields.bytes (f : TransferFields) : List Byte :=
  [f.direction, f.space] ++ bytes3 f.address ++ [f.cardStep, f.width] ++ bytes4 f.count ++ [f.side] ++
    bytes3 f.offset ++ [f.memoryStep]

def takeScan (l : List Byte) : Option (ScanFields × List Byte) := do
  let (space, l) ← take1 l
  let (address, l) ← take3 l
  let (step, l) ← take1 l
  let (width, l) ← take1 l
  let (count, l) ← take4 l
  let (condition, l) ← take1 l
  let (operand, l) ← take2 l
  let (mask, l) ← take2 l
  let (interval, l) ← take2 l
  let (capturePresent, l) ← take1 l
  let (capture, l) ← take3 l
  some (⟨space, address, step, width, count, condition, operand, mask, interval, capturePresent, capture⟩, l)

def ScanFields.bytes (f : ScanFields) : List Byte :=
  [f.space] ++ bytes3 f.address ++ [f.step, f.width] ++ bytes4 f.count ++ [f.condition] ++ bytes2 f.operand ++
    bytes2 f.mask ++ bytes2 f.interval ++ [f.capturePresent] ++ bytes3 f.capture

def takeCompare (l : List Byte) : Option (CompareFields × List Byte) := do
  let (space, l) ← take1 l
  let (address, l) ← take3 l
  let (cardStep, l) ← take1 l
  let (width, l) ← take1 l
  let (offset, l) ← take3 l
  let (memoryStep, l) ← take1 l
  let (count, l) ← take4 l
  let (condition, l) ← take1 l
  let (mask, l) ← take2 l
  some (⟨space, address, cardStep, width, offset, memoryStep, count, condition, mask⟩, l)

def CompareFields.bytes (f : CompareFields) : List Byte :=
  [f.space] ++ bytes3 f.address ++ [f.cardStep, f.width] ++ bytes3 f.offset ++ [f.memoryStep] ++ bytes4 f.count ++
    [f.condition] ++ bytes2 f.mask

/-- The action of a LineSet by its kind byte: 0 for none, the codes of Read to Scan, anything else as unlisted. -/
def takeAction (l : List Byte) : Option (ActionFields × List Byte) := do
  let (kind, l) ← take1 l
  match kind.toNat with
  | 0x00 => some (.absent, l)
  | 0x50 => do
    let (c, l) ← takeCard l
    some (.read c, l)
  | 0x51 => do
    let (c, l) ← takeCard l
    let (v, l) ← take2 l
    some (.write c v, l)
  | 0x52 => do
    let (c, l) ← takeCard l
    let (a, l) ← take2 l
    let (o, l) ← take2 l
    some (.modify c a o, l)
  | 0x53 => do
    let (f, l) ← takeTransfer l
    some (.transfer f, l)
  | 0x54 => do
    let (f, l) ← takeScan l
    some (.scan f, l)
  | _ => some (.unlisted kind, l)

def ActionFields.bytes : ActionFields → List Byte
  | .absent => [0x00]
  | .read c => [0x50] ++ c.bytes
  | .write c v => [0x51] ++ c.bytes ++ bytes2 v
  | .modify c a o => [0x52] ++ c.bytes ++ bytes2 a ++ bytes2 o
  | .transfer f => [0x53] ++ f.bytes
  | .scan f => [0x54] ++ f.bytes
  | .unlisted k => [k]

def takeLine (l : List Byte) : Option (LineFields × List Byte) := do
  let (line, l) ← take1 l
  let (role, l) ← take1 l
  let (mode, l) ← take1 l
  let (service, l) ← take1 l
  let (action, l) ← takeAction l
  some (⟨line, role, mode, service, action⟩, l)

def LineFields.bytes (f : LineFields) : List Byte := [f.line, f.role, f.mode, f.service] ++ f.action.bytes

def takeWatchSlot (l : List Byte) : Option (WatchSlotFields × List Byte) := do
  let (valid, l) ← take1 l
  let (space, l) ← take1 l
  let (address, l) ← take3 l
  let (width, l) ← take1 l
  let (mask, l) ← take2 l
  let (report, l) ← take1 l
  some (⟨valid, space, address, width, mask, report⟩, l)

def WatchSlotFields.bytes (f : WatchSlotFields) : List Byte :=
  [f.valid, f.space] ++ bytes3 f.address ++ [f.width] ++ bytes2 f.mask ++ [f.report]

def takeWatch (l : List Byte) : Option (WatchFields × List Byte) := do
  let (mode, l) ← take1 l
  let (interval, l) ← take2 l
  let (trigger, l) ← take1 l
  let (s0, l) ← takeWatchSlot l
  let (s1, l) ← takeWatchSlot l
  let (s2, l) ← takeWatchSlot l
  let (s3, l) ← takeWatchSlot l
  let (s4, l) ← takeWatchSlot l
  let (s5, l) ← takeWatchSlot l
  let (s6, l) ← takeWatchSlot l
  let (s7, l) ← takeWatchSlot l
  some (⟨mode, interval, trigger, #v[s0, s1, s2, s3, s4, s5, s6, s7]⟩, l)

def WatchFields.bytes (f : WatchFields) : List Byte :=
  [f.mode] ++ bytes2 f.interval ++ [f.trigger] ++ f.slots[0].bytes ++ f.slots[1].bytes ++ f.slots[2].bytes ++
    f.slots[3].bytes ++ f.slots[4].bytes ++ f.slots[5].bytes ++ f.slots[6].bytes ++ f.slots[7].bytes

/-! ## Kinds (R174, Codes) -/

/-- The kind byte of a request. -/
def RequestBody.kind : RequestBody → Byte
  | .identify => 0x01
  | .statusGet => 0x02
  | .partReset => 0x03
  | .windowSet _ => 0x10
  | .windowClear _ => 0x11
  | .windowList => 0x12
  | .memoryRead _ _ => 0x18
  | .memoryWrite _ => 0x19
  | .memoryFill _ _ _ => 0x1A
  | .refreshSet _ _ => 0x20
  | .channelSet _ => 0x28
  | .channelStage _ => 0x29
  | .channelQuiesce _ => 0x2A
  | .lineSet _ => 0x30
  | .lineEnd _ => 0x31
  | .watchSet _ => 0x38
  | .watchStart => 0x39
  | .watchStop => 0x3A
  | .watchRead => 0x3B
  | .queuePause => 0x40
  | .queueResume => 0x41
  | .queueFlush => 0x42
  | .queueCancel _ => 0x43
  | .read _ => 0x50
  | .write _ _ => 0x51
  | .modify _ _ _ => 0x52
  | .transfer _ => 0x53
  | .scan _ => 0x54
  | .compare _ => 0x55
  | .delay _ => 0x56
  | .await _ _ => 0x57
  | .slotReset _ => 0x58

/-- The fixed part of a request's body, laid out (R174). -/
def RequestBody.bytes : RequestBody → List Byte
  | .identify => []
  | .statusGet => []
  | .partReset => []
  | .windowSet f => f.bytes
  | .windowClear e => [e]
  | .windowList => []
  | .memoryRead o n => bytes3 o ++ bytes2 n
  | .memoryWrite o => bytes3 o
  | .memoryFill o n p => bytes3 o ++ bytes3 n ++ [p]
  | .refreshSet p c => [p, c]
  | .channelSet f => f.bytes
  | .channelStage f => f.bytes
  | .channelQuiesce c => [c]
  | .lineSet f => f.bytes
  | .lineEnd n => [n]
  | .watchSet f => f.bytes
  | .watchStart => []
  | .watchStop => []
  | .watchRead => []
  | .queuePause => []
  | .queueResume => []
  | .queueFlush => []
  | .queueCancel t => bytes2 t
  | .read c => c.bytes
  | .write c v => c.bytes ++ bytes2 v
  | .modify c a o => c.bytes ++ bytes2 a ++ bytes2 o
  | .transfer f => f.bytes
  | .scan f => f.bytes
  | .compare f => f.bytes
  | .delay d => bytes4 d
  | .await g t => [g] ++ bytes2 t
  | .slotReset d => bytes2 d

/-- What the kind byte selects: no listed kind, or the reader of that kind's fixed part, which answers nothing when
the body is shorter than the fixed part (R163, steps 3 and 5). -/
def takeBody (kind : Byte) (l : List Byte) : Option (Option (RequestBody × List Byte)) :=
  match kind.toNat with
  | 0x01 => some (some (.identify, l))
  | 0x02 => some (some (.statusGet, l))
  | 0x03 => some (some (.partReset, l))
  | 0x10 => some ((takeWindow l).map fun (f, l) => (.windowSet f, l))
  | 0x11 => some ((take1 l).map fun (e, l) => (.windowClear e, l))
  | 0x12 => some (some (.windowList, l))
  | 0x18 => some (do
    let (o, l) ← take3 l
    let (n, l) ← take2 l
    some (.memoryRead o n, l))
  | 0x19 => some ((take3 l).map fun (o, l) => (.memoryWrite o, l))
  | 0x1A => some (do
    let (o, l) ← take3 l
    let (n, l) ← take3 l
    let (p, l) ← take1 l
    some (.memoryFill o n p, l))
  | 0x20 => some (do
    let (p, l) ← take1 l
    let (c, l) ← take1 l
    some (.refreshSet p c, l))
  | 0x28 => some ((takeChannel l).map fun (f, l) => (.channelSet f, l))
  | 0x29 => some ((takeStage l).map fun (f, l) => (.channelStage f, l))
  | 0x2A => some ((take1 l).map fun (c, l) => (.channelQuiesce c, l))
  | 0x30 => some ((takeLine l).map fun (f, l) => (.lineSet f, l))
  | 0x31 => some ((take1 l).map fun (n, l) => (.lineEnd n, l))
  | 0x38 => some ((takeWatch l).map fun (f, l) => (.watchSet f, l))
  | 0x39 => some (some (.watchStart, l))
  | 0x3A => some (some (.watchStop, l))
  | 0x3B => some (some (.watchRead, l))
  | 0x40 => some (some (.queuePause, l))
  | 0x41 => some (some (.queueResume, l))
  | 0x42 => some (some (.queueFlush, l))
  | 0x43 => some ((take2 l).map fun (t, l) => (.queueCancel t, l))
  | 0x50 => some ((takeCard l).map fun (c, l) => (.read c, l))
  | 0x51 => some (do
    let (c, l) ← takeCard l
    let (v, l) ← take2 l
    some (.write c v, l))
  | 0x52 => some (do
    let (c, l) ← takeCard l
    let (a, l) ← take2 l
    let (o, l) ← take2 l
    some (.modify c a o, l))
  | 0x53 => some ((takeTransfer l).map fun (f, l) => (.transfer f, l))
  | 0x54 => some ((takeScan l).map fun (f, l) => (.scan f, l))
  | 0x55 => some ((takeCompare l).map fun (f, l) => (.compare f, l))
  | 0x56 => some ((take4 l).map fun (d, l) => (.delay d, l))
  | 0x57 => some (do
    let (g, l) ← take1 l
    let (t, l) ← take2 l
    some (.await g t, l))
  | 0x58 => some ((take2 l).map fun (d, l) => (.slotReset d, l))
  | _ => none

/-! ## Framing (R163) -/

/-- A refusal at framing: the kind byte of the reply, its status and its tag. -/
structure FramingRefusal where
  kind : Byte
  status : Status
  tag : Word
  deriving DecidableEq, Repr

/-- What the link interface makes of a transfer. -/
inductive Framed where
  | refused (r : FramingRefusal)
  | request (r : HostRequest)
  deriving DecidableEq, Repr

/-- The kind byte of a reply: the request's with its top bit set. -/
def replyKind (kind : Byte) : Byte := kind ||| 0x80

/-- The five checks of R163, in order; the first that fails decides. -/
def frame (transfer : List Byte) : Framed :=
  match transfer with
  | l0 :: l1 :: kind :: code :: t0 :: t1 :: body =>
    let tag : Word := t1 ++ t0
    let size := transfer.length
    if (l1 ++ l0 : Word).toNat ≠ size ∨ size < 6 ∨ Config.maxMessage < size then
      .refused ⟨replyKind kind, .badLength, tag⟩
    else
      match takeBody kind body with
      | none => .refused ⟨replyKind kind, .badKind, tag⟩
      | some fixed =>
        if code ≠ 0 then .refused ⟨replyKind kind, .badField, tag⟩
        else
          match fixed with
          | none => .refused ⟨replyKind kind, .badLength, tag⟩
          | some (b, data) => .request ⟨tag, b, data⟩
  | _ => .refused ⟨0x80, .badLength, 0⟩

/-- The transfer of a request: header, fixed part, data bytes (R174). -/
def encodeRequest (r : HostRequest) : List Byte :=
  let body := r.body.bytes ++ r.data
  bytes2 (BitVec.ofNat 16 (6 + body.length)) ++ [r.body.kind, 0x00] ++ bytes2 r.tag ++ body

/-! ## The table's words -/

/-- No row of spec/opcode_table.json gives bits, so no word spells a command. -/
def decodeTableWord (_nbits _w : Nat) : Option Instr := none

end Sys2Proof
end

