-- ==== Sys2Proof/Machine/State.lean ====
section
/-! DEFINITION. The state of the block as plain data, one part for each block of 00_scope.md, and the state after
reset (the moment power-on is taken, log 1). What the manual lists but other fields already determine (sub-states,
waiting claims, cycle phases, driven lines) is computed from them, never stored twice (log 20). -/

namespace Sys2Proof.Machine

/-! ## Values shared by the blocks -/

/-- The element width: 1 or 2 bytes. -/
inductive Width where
  | one
  | two
  deriving DecidableEq, Repr

/-- A card step (R77). -/
inductive Step where
  | inc
  | dec
  | fixed
  deriving DecidableEq, Repr

/-- A step on the memory side (R77, R122): never FIXED. -/
inductive MemStep where
  | inc
  | dec
  deriving DecidableEq, Repr

/-- The kinds of fault an element, a channel or a watch read can end with (R174, status codes). -/
inductive FaultKind where
  | windowBlocked
  | writeProtected
  | readyTimeout
  | channelCheck
  | range
  | dmaAddress
  | timeout
  deriving DecidableEq, Repr

/-- Where and how an element failed (R13, R49): absent address for a failure that belongs to no element. The address
is signed because a memory pointer may stand at -2 to 0x100000 (R79). -/
structure FailRecord where
  kind : FaultKind
  at? : Option (Space × Int)
  isPartial : Bool
  deriving DecidableEq, Repr

/-! ## Operations (05, 06) -/

/-- The card side of an operation: space, starting address, width (05, 5.1). -/
structure CardSide where
  space : Space
  address : Nat
  width : Width
  deriving DecidableEq, Repr

/-- The memory side of a Transfer (R77): base memory from an offset, or the data carried in the messages. -/
inductive MemorySide where
  | base (offset : Nat) (step : MemStep)
  | inline (data : List Byte)
  deriving DecidableEq, Repr

inductive Direction where
  | into
  | out
  deriving DecidableEq, Repr

/-- The ten conditions of R87. -/
inductive Condition where
  | eq | ne | ult | ule | ugt | uge | slt | sge | any | none
  deriving DecidableEq, Repr

/-- The sources an Await can name (R64). -/
inductive AwaitSource where
  | line (n : Fin 8)
  | channel (n : Fin 4)
  | watch
  deriving DecidableEq, Repr

/-- A checked operation: the parameters of a queue entry or of a line action. -/
inductive Op where
  | read (card : CardSide)
  | write (card : CardSide) (value : Word)
  | modify (card : CardSide) (andMask orMask : Word)
  | transfer (dir : Direction) (card : CardSide) (step : Step) (count : Nat) (side : MemorySide)
  | scan (card : CardSide) (step : Step) (count : Nat) (cond : Condition) (operand mask : Word) (interval : Nat)
      (capture : Option Nat)
  | compare (card : CardSide) (step : Step) (offset : Nat) (memStep : MemStep) (count : Nat) (cond : Condition)
      (mask : Word)
  | delay (duration : Nat)
  | await (source : AwaitSource) (timeout : Nat)
  | slotReset (duration : Nat)
  deriving DecidableEq, Repr

/-- Progress, written at every element boundary (R49): elements done, card pointer, memory pointer (R78). -/
structure Progress where
  done : Nat
  card : Nat
  mem : Int
  deriving DecidableEq, Repr

/-- A result gathered so far, by kind (R53, R113): the one or two values of the kind, the two flags, inline data. -/
structure Gathered where
  values : Option (Word × Word)
  matched : Bool
  exhausted : Bool
  data : List Byte
  deriving DecidableEq, Repr

def Gathered.empty : Gathered := ⟨none, false, false, []⟩

/-! ## The window table (R14) -/

inductive WindowOwner where
  | baseMemory
  | card
  | blocked
  deriving DecidableEq, Repr

inductive WidthAttr where
  | narrow
  | wide
  | sense
  deriving DecidableEq, Repr

structure Window where
  space : Space
  base : Nat
  limit : Nat
  owner : WindowOwner
  width : WidthAttr
  waitCount : Nat
  readyTimeout : Nat
  writeProtect : Bool
  deriving DecidableEq, Repr

/-- What a lookup finds for an element, fixed for the whole element (R15). -/
structure Attrs where
  owner : WindowOwner
  width : WidthAttr
  waitCount : Nat
  readyTimeout : Nat
  writeProtect : Bool
  deriving DecidableEq, Repr

/-! ## The cycle unit (01) -/

/-- The owner of a B16-owned cycle, as the record of R7 names it. -/
inductive CycleOwner where
  | none
  | queue (tag : Word)
  | line (n : Fin 8)
  | channel (n : Fin 4)
  | watch
  deriving DecidableEq, Repr

/-- The record of the most recent B16-owned cycle (R7). -/
structure CycleRecord where
  space : Space
  address : Nat
  owner : CycleOwner
  deriving DecidableEq, Repr

/-- What an element does on its card side (R71-R73). -/
inductive ElementOp where
  | read
  | write (value : Word)
  | modify (andMask orMask : Word)
  deriving DecidableEq, Repr

/-- The cycles of a locked group in their order (R10, R74): first and second read, first and second write. -/
inductive GroupPos where
  | read1
  | read2
  | write1
  | write2
  deriving DecidableEq, Repr

/-- How many data lines a cycle uses (R10, R11). -/
inductive Lanes where
  | narrow
  | wide
  deriving DecidableEq, Repr

/-- The two users of the slot bus that run locked groups (R26). -/
inductive GroupUser where
  | engine
  | watch
  deriving DecidableEq, Repr

/-- The locked group in progress (R12): the element, where the group stands, the bytes read, whether it was split,
whether a write cycle has completed OK (R13). -/
structure Group where
  user : GroupUser
  owner : CycleOwner
  space : Space
  address : Nat
  width : Width
  attrs : Attrs
  op : ElementOp
  pos : GroupPos
  old : Word
  new : Word
  readDone : Bool
  isSplit : Bool
  written : Bool
  deriving DecidableEq, Repr

inductive CycleKind where
  | memory
  | io
  | dma (n : Fin 4)
  | refresh
  deriving DecidableEq, Repr

/-- The cycle in progress (R3-R5). `clock` is the number of the current clock, 1 being the (last) address clock;
`held` records that SWAIT was sampled asserted; `needsUnit` that a MEMORY_TO_CARD element waits in ADDRESS for its
read unit (R42); `slast` that the element completes its block (R128). -/
structure Cycle where
  kind : CycleKind
  address : Nat
  isWrite : Bool
  lanes : Lanes
  drive : Word
  programmed : Nat
  readyTimeout : Nat
  clock : Nat
  held : Bool
  needsUnit : Bool
  slast : Bool
  deriving DecidableEq, Repr

/-- The four states of the cycle in progress (R3). -/
inductive CyclePhase where
  | idle
  | address
  | strobe
  | held
  deriving DecidableEq, Repr

/-- How base memory answers a master's cycle (R18, R42). -/
inductive MasterAnswer where
  | none                        -- not answered
  | readWait                    -- the read unit waits
  | readServed (value : Word)   -- data driven until the strobe ends
  | writeIdle (offset : Nat)    -- write, strobe not yet asserted
  | writeWait                   -- the store unit waits, SWAIT asserted
  | writeStored                 -- stored
  | writeProtected              -- nothing stored
  deriving DecidableEq, Repr

/-- A bus master's cycle in progress: `wide` is the width it is answered with, SWIDE asserted when it is. -/
structure MasterCycle where
  space : Space
  address : Nat
  isWrite : Bool
  wide : Bool
  answer : MasterAnswer
  strobe : Bool
  deriving DecidableEq, Repr

structure Bus where
  cycle : Option Cycle
  group : Option Group
  record : CycleRecord
  master : Option MasterCycle
  deriving DecidableEq, Repr

/-! ## Arbiter, refresh, SRESET (02) -/

inductive Claimant where
  | refresh
  | channel (n : Fin 4)
  | engine
  | watch
  deriving DecidableEq, Repr

/-- The arbiter's states (R23). -/
inductive Arbiter where
  | idle
  | granted (c : Claimant)
  | insertedRefresh (n : Fin 4)
  | handback (n : Fin 4)
  deriving DecidableEq, Repr

structure Refresh where
  period : Nat
  timer : Option Nat
  pending : Bool
  row : BitVec 8
  late : Nat
  deriving DecidableEq, Repr

/-- SRESET: released, or asserted by the power-on pulse or by a SlotReset entry (R2, R66). -/
inductive SReset where
  | released
  | powerOn
  | slotReset
  deriving DecidableEq, Repr

/-! ## Base memory and its port (03) -/

/-- Base memory: (offset, byte) pairs, offsets strictly rising, no byte 0 listed (an unlisted byte reads 0). -/
abbrev Mem := List Host.Cell

inductive UnitOp where
  | read
  | write (value : Word)
  | modify (andMask orMask : Word)
  deriving DecidableEq, Repr

/-- On whose behalf a unit is served. `orphan` is a turn whose owner a reset has removed (R39, R47). -/
inductive Requester where
  | dmaRead (n : Fin 4)
  | dmaStore (n : Fin 4)
  | masterRead
  | masterStore
  | engine
  | watch
  | link
  | orphan
  deriving DecidableEq, Repr

/-- A unit: the one or two bytes of one turn (R40). -/
structure MemUnit where
  requester : Requester
  offset : Nat
  width : Width
  op : UnitOp
  deriving DecidableEq, Repr

inductive Side where
  | slot
  | link
  deriving DecidableEq, Repr

/-- A link-side request's work: bytes gathered, bytes still to be written, or the pattern (R44-R46). -/
inductive LinkWork where
  | read (gathered : List Byte)
  | write (rest : List Byte)
  | fill (pattern : Byte)
  deriving DecidableEq, Repr

/-- The link-side request in progress: its next offset and the first offset beyond its range. -/
structure LinkJob where
  work : LinkWork
  next : Nat
  stop : Nat
  deriving DecidableEq, Repr

structure Port where
  turn : Option MemUnit
  last : Side
  bus : List MemUnit
  engine : Option MemUnit
  watch : Option MemUnit
  link : Option LinkJob
  deriving DecidableEq, Repr

/-! ## Request queue and engine (04) -/

/-- Entry states (R51). -/
inductive EntryState where
  | queued
  | active
  | done
  | failed
  | cancelled
  | flushed
  deriving DecidableEq, Repr

/-- An entry of the request queue (R49). `timer` is the duration of the wait timer it runs, if any. -/
structure Entry where
  tag : Word
  op : Op
  state : EntryState
  cancel : Bool
  progress : Progress
  result : Gathered
  fail : Option FailRecord
  timer : Option Nat
  deriving DecidableEq, Repr

/-- Sub-states of an ACTIVE entry (R52), computed by `State.subState`. -/
inductive SubState where
  | waitBus
  | inCycle
  | waitTime
  | waitEvent
  deriving DecidableEq, Repr

structure Queue where
  entries : List Entry
  paused : Bool
  halted : Bool
  deriving DecidableEq, Repr

inductive EngineState where
  | idle
  | entry
  | action (n : Fin 8)
  deriving DecidableEq, Repr

/-- Whose element it is: the ACTIVE entry's, a line action's, or that of an entry a link reset removed (R68). -/
inductive WorkItem where
  | entry
  | orphan
  | line (n : Fin 8)
  deriving DecidableEq, Repr

/-- The memory-side part that follows the card part (R80, R89, R95). -/
inductive AfterPart where
  | nothing
  | store (offset : Nat)
  | fetch (offset : Nat)
  deriving DecidableEq, Repr

/-- Where the element stands: its memory part first (R81), its card part, its memory part last. -/
inductive Stage where
  | memoryFirst (offset : Nat)
  | card
  | memoryLast
  deriving DecidableEq, Repr

/-- The engine's element in flight (R60). `value` is the card value once the card part has ended. -/
structure Element where
  item : WorkItem
  owner : CycleOwner
  space : Space
  address : Nat
  width : Width
  attrs : Attrs
  op : ElementOp
  after : AfterPart
  stage : Stage
  value : Word
  deriving DecidableEq, Repr

structure Engine where
  state : EngineState
  element : Option Element
  deriving DecidableEq, Repr

/-! ## Interrupt unit (07) -/

inductive LineRole where
  | disabled
  | interrupt
  | trigger
  deriving DecidableEq, Repr

inductive LineMode where
  | edge
  | level
  deriving DecidableEq, Repr

inductive Service where
  | hold
  | auto
  deriving DecidableEq, Repr

inductive LineState where
  | disabled
  | idle
  | pending
  | acting
  | inService
  | faulted
  deriving DecidableEq, Repr

/-- A line record (R103). `interval` is the running interval timer of an action Scan (R101). -/
structure Line where
  role : LineRole
  mode : LineMode
  service : Service
  action : Option Op
  state : LineState
  again : Bool
  edges : Nat
  level : Bool
  progress : Progress
  result : Gathered
  interval : Option Nat
  deriving DecidableEq, Repr

/-! ## DMA controller (08) -/

inductive ChannelDirection where
  | cardToMemory
  | memoryToCard
  | verify
  deriving DecidableEq, Repr

inductive ChannelMode where
  | single
  | demand
  | block
  | cascade
  deriving DecidableEq, Repr

inductive EndMode where
  | once
  | reload
  deriving DecidableEq, Repr

inductive ChannelState where
  | off
  | idle
  | ready
  | moving
  | waiting
  | master
  | heldOff
  | faulted
  deriving DecidableEq, Repr

structure ChannelConfig where
  enable : Bool
  direction : ChannelDirection
  width : Width
  mode : ChannelMode
  endMode : EndMode
  waitCount : Nat
  readyTimeout : Nat
  tenureLimit : Nat
  deriving DecidableEq, Repr

/-- A block record (R122). -/
structure Block where
  offset : Int
  count : Nat
  step : MemStep
  done : Nat
  original : Nat
  deriving DecidableEq, Repr

/-- A channel record (R121), the sampled level of SREQn, and what has been taken since the element in flight began:
a ChannelQuiesce or link reset (`quiescing`), an assertion of SRESET (`stopped`) (R28). -/
structure Channel where
  config : ChannelConfig
  current : Option Block
  staged : Option Block
  state : ChannelState
  blocksDone : Nat
  overrun : Bool
  starved : Bool
  protectHit : Bool
  fault : Option FaultKind
  tenureTimer : Option Nat
  sreq : Bool
  quiescing : Bool
  stopped : Bool
  deriving DecidableEq, Repr

/-! ## Watch unit (09) -/

structure WatchEntry where
  space : Space
  address : Nat
  width : Width
  mask : Word
  report : Bool
  deriving DecidableEq, Repr

/-- What a watch read left: a value or a fault kind (R146). -/
inductive Reading where
  | value (v : Word)
  | fault (k : FaultKind)
  deriving DecidableEq, Repr

inductive WatchMode where
  | single
  | cyclic
  deriving DecidableEq, Repr

inductive WatchState where
  | stopped
  | armed
  | scanning
  | resting
  deriving DecidableEq, Repr

/-- The watch read in flight (R144, R145). -/
structure WatchRead where
  slot : Fin 8
  space : Space
  address : Nat
  width : Width
  attrs : Attrs
  discard : Bool
  deriving DecidableEq, Repr

structure Watch where
  slots : Vector (Option WatchEntry) 8
  mode : WatchMode
  interval : Nat
  trigger : Option (Fin 8)
  state : WatchState
  pass : Vector (Option Reading) 8
  next : Nat
  read : Option WatchRead
  stopping : Bool
  snapshot : Option (Vector (Option Reading) 8)
  passCount : BitVec 32
  rest : Option Nat
  deriving DecidableEq, Repr

/-! ## Notices (10) -/

inductive Source where
  | line (n : Fin 8)
  | channel (n : Fin 4)
  | watch
  | check
  | refresh
  deriving DecidableEq, Repr

inductive Reason where
  | blockDone
  | fault
  | overstay
  deriving DecidableEq, Repr

/-- What a LINE notice says of the run (R113): no action, success, or the failure. -/
inductive ActionStatus where
  | none
  | ok
  | failed (f : FailRecord)
  deriving DecidableEq, Repr

/-- The result of an action's run: the action's kind byte, its progress, what it gathered. -/
structure RunResult where
  kind : Byte
  progress : Progress
  result : Gathered
  deriving DecidableEq, Repr

/-- LINE body (R113). -/
structure LineBody where
  line : Fin 8
  edges : Nat
  status : ActionStatus
  result : Option RunResult
  resultLost : Bool
  deriving DecidableEq, Repr

/-- CHANNEL body (R133). -/
structure ChannelBody where
  channel : Fin 4
  reason : Reason
  blocksDone : Nat
  state : ChannelState
  overrun : Bool
  starved : Bool
  protectHit : Bool
  fault : Option FaultKind
  remaining : Nat
  deriving DecidableEq, Repr

/-- WATCH body (R149): pass count, changed set, and the snapshot the posting pass wrote, of which the message carries
the entries of the changed set. -/
structure WatchBody where
  passCount : BitVec 32
  changed : Vector Bool 8
  values : Vector (Option Reading) 8
  deriving DecidableEq, Repr

inductive NoticeBody where
  | line (b : LineBody)
  | channel (b : ChannelBody)
  | watch (b : WatchBody)
  | check (r : CycleRecord)
  | refresh (late : Nat)
  deriving DecidableEq, Repr

/-- A notice (R154). -/
structure Notice where
  source : Source
  occurrences : Nat
  body : NoticeBody
  deriving DecidableEq, Repr

/-! ## Link interface (11) -/

/-- StatusGet's picture of the ACTIVE entry (R169). -/
structure ActiveReport where
  tag : Word
  subState : SubState
  progress : Progress
  deriving DecidableEq, Repr

structure ChannelReport where
  state : ChannelState
  overrun : Bool
  starved : Bool
  protectHit : Bool
  blocksDone : Nat
  fault : Option FaultKind
  deriving DecidableEq, Repr

structure LineReport where
  state : LineState
  again : Bool
  deriving DecidableEq, Repr

/-- The StatusGet reply (R169). -/
structure StatusReport where
  paused : Bool
  halted : Bool
  entries : Nat
  active : Option ActiveReport
  channels : Vector ChannelReport 4
  lines : Vector LineReport 8
  watch : WatchState
  passCount : BitVec 32
  period : Nat
  late : Nat
  sfault : Bool
  deriving DecidableEq, Repr

/-- The body of a reply, by kind (R174). -/
inductive ReplyBody where
  | none
  | identify
  | status (r : StatusReport)
  | windows (w : Vector (Option Window) 16)
  | bytes (l : List Byte)
  | refresh (period late : Nat)
  | channelState (s : ChannelState)
  | placed (staged : Bool)
  | lineState (s : LineState)
  | watchState (s : WatchState)
  | watchRead (s : WatchState) (passCount : BitVec 32) (snapshot : Option (Vector (Option Reading) 8))
  | pause (active : Option (Word × Bool))
  | flushed (n : Nat)
  | cancel (wasActive : Bool)
  | entry (e : Entry)
  deriving DecidableEq, Repr

/-- A reply: its kind byte (top bit set), status, tag and body. -/
structure Reply where
  kind : Byte
  status : Status
  tag : Word
  body : ReplyBody
  deriving DecidableEq, Repr

inductive Message where
  | reply (r : Reply)
  | notice (n : Notice)
  deriving DecidableEq, Repr

inductive LinkState where
  | detached
  | configured
  deriving DecidableEq, Repr

/-- The request a WORKING slot waits for (R165). -/
inductive Work where
  | memory
  | quiesce (n : Fin 4)
  | watchStop
  | partReset
  deriving DecidableEq, Repr

/-- The immediate-reply slot (R164); WORKING keeps the kind byte and the tag its reply will carry. -/
inductive Slot where
  | empty
  | working (work : Work) (kind : Byte) (tag : Word)
  | ready (r : Reply)
  deriving DecidableEq, Repr

inductive ReportPipe where
  | free
  | sending (m : Message)
  deriving DecidableEq, Repr

structure Link where
  state : LinkState
  filled : Bool
  slot : Slot
  report : ReportPipe
  pipe : List Framed
  resetting : Bool
  deriving DecidableEq, Repr

/-! ## The state -/

/-- The whole block. -/
structure State where
  pending : List Instr
  link : Link
  windows : Vector (Option Window) 16
  bus : Bus
  sfault : Bool
  arbiter : Arbiter
  refresh : Refresh
  sreset : SReset
  mem : Mem
  port : Port
  queue : Queue
  engine : Engine
  channels : Vector Channel 4
  lines : Vector Line 8
  watch : Watch
  notices : List Notice
  free : Nat
  deriving DecidableEq, Repr

/-- The reasons a step could stop with a fault. The manual gives this block none: a fault of an element, a line, a
channel or a watch read is state (R62, R112, R132, R146), so the type has no constructor. -/
inductive Fault where
  deriving DecidableEq, Repr

/-- The reasons a command could be refused by the model. -/
inductive Refusal where
  /-- Raised only by a command that has no meaning yet; the model as it stands raises it for none. It is a safe
  difference: nothing is claimed of such a command. -/
  | notModelled (mnemonic : String)
  deriving DecidableEq, Repr

/-! ## Values after power-on and part reset -/

/-- Window entry 0 after power-on and part reset (R14). -/
def Window.initial : Window :=
  ⟨.memory, 0x000000, 0x09FFFF, .baseMemory, .wide, 0, Config.defaultReadyTimeout, false⟩

def windowsInitial : Vector (Option Window) 16 :=
  #v[some Window.initial, none, none, none, none, none, none, none, none, none, none, none, none, none, none, none]

/-- No cycle, no group, the record NONE, MEMORY, 0x000000 (R21). -/
def Bus.initial : Bus := ⟨none, none, ⟨.memory, 0, .none⟩, none⟩

def Refresh.initial (timer : Option Nat) : Refresh := ⟨Config.defaultRefreshPeriod, timer, false, 0, 0⟩

/-- Free, side served last LINK, nothing waiting (R41). -/
def Port.initial : Port := ⟨none, .link, [], none, none, none⟩

def Queue.initial : Queue := ⟨[], false, false⟩

def Engine.initial : Engine := ⟨.idle, none⟩

/-- A line record after power-on and part reset (R103); the remembered level is the line's own. -/
def Line.initial (level : Bool) : Line :=
  ⟨.disabled, .edge, .hold, none, .disabled, false, 0, level, ⟨0, 0, 0⟩, Gathered.empty, none⟩

def ChannelConfig.initial : ChannelConfig :=
  ⟨false, .cardToMemory, .one, .single, .once, 0, Config.defaultReadyTimeout, 0⟩

/-- A channel record after power-on and part reset (R121); the level of SREQn is the card's own. -/
def Channel.initial (sreq : Bool) : Channel :=
  ⟨ChannelConfig.initial, none, none, .off, 0, false, false, false, none, none, sreq, false, false⟩

def readingsNone : Vector (Option Reading) 8 := #v[none, none, none, none, none, none, none, none]

/-- The watch unit after power-on and part reset (R141). -/
def Watch.initial : Watch :=
  ⟨#v[none, none, none, none, none, none, none, none], .single, 0, none, .stopped, readingsNone, 0, none, false,
    none, 0, none⟩

/-- The link interface at power-on: DETACHED, the fill still to run, nothing held (R164, R173). -/
def Link.initial : Link := ⟨.detached, false, .empty, .free, [], false⟩

/-- The block at the moment power-on is taken, for the card levels at the end of power-on: SRESET asserted by the
power-on pulse, the refresh timer started at 15 µs, every block at its power-on values (R36, R173). Base memory is
left to the start-up fill (R39, log 7). -/
def State.powerOn (pending : List Instr) (free : Nat) (mem : Mem) (sfault : Bool) (sint : BitVec 8)
    (sreq : BitVec 4) : State where
  pending := pending
  link := Link.initial
  windows := windowsInitial
  bus := Bus.initial
  sfault := sfault
  arbiter := .idle
  refresh := Refresh.initial (some Config.defaultRefreshPeriod)
  sreset := .powerOn
  mem := mem
  port := Port.initial
  queue := Queue.initial
  engine := Engine.initial
  channels := Vector.ofFn fun i => Channel.initial (sreq.getLsbD i)
  lines := Vector.ofFn fun i => Line.initial (sint.getLsbD i)
  watch := Watch.initial
  notices := []
  free := free

/-- The machine right after reset: power-on, no card driving SFAULT, SINT or SREQ (log 1). -/
def State.reset : State := State.powerOn [] 0 [] false 0 0

end Sys2Proof.Machine
end

