-- ==== Sys2Proof/Machine/Operands.lean ====
section
/-! DEFINITION. Operand forms: addresses and their wraps, widths and values, pointer steps, and the admission range
checks that turn the raw fields of a request into a checked operation or record (R70, R77, R88, R94, R63, R64, R66,
R19, R123, R124, R116, R143). -/

namespace Sys2Proof.Machine

/-! ## Addresses and values -/

/-- The number of addresses of a space (01, 1.1). -/
def spaceSize : Space → Nat
  | .memory => 0x1000000
  | .io => 0x10000

/-- Every computed address wraps within its space (R1). -/
def wrapAddress (sp : Space) (a : Int) : Nat := (a % (spaceSize sp : Int)).toNat

/-- The width in bytes. -/
def Width.bytes : Width → Nat
  | .one => 1
  | .two => 2

/-- The largest value of the width. -/
def Width.mask : Width → Word
  | .one => 0x00FF
  | .two => 0xFFFF

/-- A value cut to the width. -/
def Width.trim (w : Width) (v : Word) : Word := v &&& w.mask

def lowByte (v : Word) : Byte := v.extractLsb' 0 8

def highByte (v : Word) : Byte := v.extractLsb' 8 8

/-- A 16-bit value from its low and its high byte. -/
def wordOf (low high : Byte) : Word := high ++ low

/-- The value of a single byte. -/
def byteValue (b : Byte) : Word := b.setWidth 16

/-- The bytes of a value of the width, low byte first. -/
def valueBytes (w : Width) (v : Word) : List Byte :=
  match w with
  | .one => [lowByte v]
  | .two => [lowByte v, highByte v]

/-- The element of an inline buffer at a position, low byte first (R81). -/
def inlineValue (w : Width) (data : List Byte) (pos : Nat) : Word :=
  match w with
  | .one => byteValue (data.getD pos 0)
  | .two => wordOf (data.getD pos 0) (data.getD (pos + 1) 0)

/-- The new value of a Modify, bit by bit: cleared where the and-mask is 0, set where the or-mask is 1 (R73). -/
def modifyValue (w : Width) (old andMask orMask : Word) : Word := w.trim ((old &&& andMask) ||| orMask)

/-- The next card pointer (R78, R90). -/
def stepCard (st : Step) (w : Width) (sp : Space) (a : Nat) : Nat :=
  match st with
  | .fixed => a
  | .inc => wrapAddress sp ((a : Int) + w.bytes)
  | .dec => wrapAddress sp ((a : Int) - w.bytes)

/-- The next memory pointer, signed, not wrapping (R78, R95, R122). -/
def stepMemory (st : MemStep) (w : Width) (a : Int) : Int :=
  match st with
  | .inc => a + w.bytes
  | .dec => a - w.bytes

/-! ## Enumerated fields (R174) -/

def finOf (n x : Nat) : Option (Fin n) := if h : x < n then some ⟨x, h⟩ else none

def boolOf (b : Byte) : Option Bool :=
  match b.toNat with
  | 0 => some false
  | 1 => some true
  | _ => none

def spaceOf (b : Byte) : Option Space :=
  match b.toNat with
  | 0 => some .memory
  | 1 => some .io
  | _ => none

def widthOf (b : Byte) : Option Width :=
  match b.toNat with
  | 1 => some .one
  | 2 => some .two
  | _ => none

def stepOf (b : Byte) : Option Step :=
  match b.toNat with
  | 0 => some .inc
  | 1 => some .dec
  | 2 => some .fixed
  | _ => none

def memStepOf (b : Byte) : Option MemStep :=
  match b.toNat with
  | 0 => some .inc
  | 1 => some .dec
  | _ => none

def directionOf (b : Byte) : Option Direction :=
  match b.toNat with
  | 0 => some .into
  | 1 => some .out
  | _ => none

def conditionOf (b : Byte) : Option Condition :=
  match b.toNat with
  | 0 => some .eq
  | 1 => some .ne
  | 2 => some .ult
  | 3 => some .ule
  | 4 => some .ugt
  | 5 => some .uge
  | 6 => some .slt
  | 7 => some .sge
  | 8 => some .any
  | 9 => some .none
  | _ => none

def windowOwnerOf (b : Byte) : Option WindowOwner :=
  match b.toNat with
  | 0 => some .baseMemory
  | 1 => some .card
  | 2 => some .blocked
  | _ => none

def widthAttrOf (b : Byte) : Option WidthAttr :=
  match b.toNat with
  | 0 => some .narrow
  | 1 => some .wide
  | 2 => some .sense
  | _ => none

def channelDirectionOf (b : Byte) : Option ChannelDirection :=
  match b.toNat with
  | 0 => some .cardToMemory
  | 1 => some .memoryToCard
  | 2 => some .verify
  | _ => none

def channelModeOf (b : Byte) : Option ChannelMode :=
  match b.toNat with
  | 0 => some .single
  | 1 => some .demand
  | 2 => some .block
  | 3 => some .cascade
  | _ => none

def endModeOf (b : Byte) : Option EndMode :=
  match b.toNat with
  | 0 => some .once
  | 1 => some .reload
  | _ => none

def lineRoleOf (b : Byte) : Option LineRole :=
  match b.toNat with
  | 0 => some .disabled
  | 1 => some .interrupt
  | 2 => some .trigger
  | _ => none

def lineModeOf (b : Byte) : Option LineMode :=
  match b.toNat with
  | 0 => some .edge
  | 1 => some .level
  | _ => none

def serviceOf (b : Byte) : Option Service :=
  match b.toNat with
  | 0 => some .hold
  | 1 => some .auto
  | _ => none

def watchModeOf (b : Byte) : Option WatchMode :=
  match b.toNat with
  | 0 => some .single
  | 1 => some .cyclic
  | _ => none

/-- An Await source: the values of the notice sources LINE0-7, CHANNEL0-3 and WATCH (R64, R174). -/
def awaitSourceOf (b : Byte) : Option AwaitSource :=
  match finOf 8 b.toNat with
  | some n => some (.line n)
  | none =>
    match finOf 4 (b.toNat - 8) with
    | some n => some (.channel n)
    | none => if b.toNat = 12 then some .watch else none

/-- A watch trigger byte: 0xFF for none, or a line number (R174); nothing else. -/
def triggerOf (b : Byte) : Option (Option (Fin 8)) :=
  if b = 0xFF then some none else (finOf 8 b.toNat).map some

/-! ## Admission of operations -/

/-- A value that lies within the range of the width (R70, R88). -/
def inWidth (w : Width) (v : Word) : Bool := w.trim v == v

/-- The common checks of a card side (R70). -/
def checkCardSide (c : CardFields) : Option CardSide := do
  let space ← spaceOf c.space
  let width ← widthOf c.width
  if c.address.toNat < spaceSize space then some ⟨space, c.address.toNat, width⟩ else none

/-- A count of 1-65536. -/
def checkCount (count : BitVec 32) : Option Nat :=
  if 1 ≤ count.toNat ∧ count.toNat ≤ 65536 then some count.toNat else none

def admitRead (c : CardFields) : Option Op := do
  let card ← checkCardSide c
  some (.read card)

def admitWrite (c : CardFields) (value : Word) : Option Op := do
  let card ← checkCardSide c
  if inWidth card.width value then some (.write card value) else none

def admitModify (c : CardFields) (andMask orMask : Word) : Option Op := do
  let card ← checkCardSide c
  if inWidth card.width andMask && inWidth card.width orMask then some (.modify card andMask orMask) else none

/-- The memory side of a Transfer by R77: BASE with an offset and a step and no data; INLINE with offset and step
fields 0, at most 1024 bytes, and exactly the data of an OUT Transfer. -/
def checkMemorySide (dir : Direction) (bytes : Nat) (side : Byte) (offset : BitVec 24) (step : Byte)
    (data : List Byte) : Option MemorySide :=
  match side.toNat with
  | 0 => do
    let st ← memStepOf step
    if offset.toNat < Config.memorySize ∧ data = [] then some (.base offset.toNat st) else none
  | 1 =>
    if bytes ≤ 1024 ∧ offset = 0 ∧ step = 0 ∧
        data.length = (match dir with | .into => 0 | .out => bytes) then
      some (.inline data)
    else none
  | _ => none

def admitTransfer (f : TransferFields) (data : List Byte) : Option Op := do
  let dir ← directionOf f.direction
  let card ← checkCardSide ⟨f.space, f.address, f.width⟩
  let step ← stepOf f.cardStep
  let count ← checkCount f.count
  let side ← checkMemorySide dir (count * card.width.bytes) f.side f.offset f.memoryStep data
  some (.transfer dir card step count side)

/-- The capture of a Scan: present with an offset inside base memory, or absent with the field 0 (R88). -/
def checkCapture (present : Byte) (capture : BitVec 24) : Option (Option Nat) := do
  let p ← boolOf present
  if p then (if capture.toNat < Config.memorySize then some (some capture.toNat) else none)
  else (if capture = 0 then some none else none)

def admitScan (f : ScanFields) : Option Op := do
  let card ← checkCardSide ⟨f.space, f.address, f.width⟩
  let step ← stepOf f.step
  let count ← checkCount f.count
  let cond ← conditionOf f.condition
  let capture ← checkCapture f.capturePresent f.capture
  if inWidth card.width f.operand && inWidth card.width f.mask then
    some (.scan card step count cond f.operand f.mask f.interval.toNat capture)
  else none

def admitCompare (f : CompareFields) : Option Op := do
  let card ← checkCardSide ⟨f.space, f.address, f.width⟩
  let step ← stepOf f.cardStep
  let memStep ← memStepOf f.memoryStep
  let count ← checkCount f.count
  let cond ← conditionOf f.condition
  if inWidth card.width f.mask && decide (f.offset.toNat < Config.memorySize) then
    some (.compare card step f.offset.toNat memStep count cond f.mask)
  else none

/-- A Delay of 1-1,000,000 µs (R63). -/
def admitDelay (d : BitVec 32) : Option Op :=
  if 1 ≤ d.toNat ∧ d.toNat ≤ 1000000 then some (.delay d.toNat) else none

/-- An Await with a timeout of 1-65535 ms (R64). -/
def admitAwait (source : Byte) (timeout : Word) : Option Op := do
  let src ← awaitSourceOf source
  if timeout = 0 then none else some (.await src timeout.toNat)

/-- A SlotReset of 10-65535 µs (R66). -/
def admitSlotReset (d : Word) : Option Op := if 10 ≤ d.toNat then some (.slotReset d.toNat) else none

/-- The bytes an inline IN buffer of the operation takes: the action limit of R116 bounds it. -/
def Op.inlineInBytes : Op → Nat
  | .transfer .into card _ count (.inline _) => count * card.width.bytes
  | _ => 0

/-- The action of a LineSet with the data bytes of the request: absent, or an operation within the action limits
(R116). -/
def admitAction (a : ActionFields) (data : List Byte) : Option (Option Op) :=
  match a with
  | .absent => if data = [] then some none else none
  | .read c => if data = [] then (admitRead c).map some else none
  | .write c v => if data = [] then (admitWrite c v).map some else none
  | .modify c x o => if data = [] then (admitModify c x o).map some else none
  | .transfer f => do
    let op ← admitTransfer f data
    if op.inlineInBytes ≤ 64 then some (some op) else none
  | .scan f => if data = [] then (admitScan f).map some else none
  | .unlisted _ => none

/-! ## Checks of the immediate requests -/

/-- WindowSet's first step (R19): the entry number and the entry. -/
def checkWindow (f : WindowFields) : Option (Fin 16 × Window) := do
  let n ← finOf 16 f.entry.toNat
  let space ← spaceOf f.space
  let owner ← windowOwnerOf f.owner
  let width ← widthAttrOf f.width
  let protect ← boolOf f.writeProtect
  if f.base.toNat ≤ f.limit.toNat ∧ f.limit.toNat < spaceSize space ∧ f.waitCount.toNat ≤ 7 ∧ f.readyTimeout ≠ 0 ∧
      (owner = .baseMemory → space = .memory ∧ f.limit.toNat < Config.memorySize) then
    some (n, ⟨space, f.base.toNat, f.limit.toNat, owner, width, f.waitCount.toNat, f.readyTimeout.toNat, protect⟩)
  else none

/-- ChannelSet's checks (R123). -/
def checkChannel (f : ChannelFields) : Option (Fin 4 × ChannelConfig) := do
  let n ← finOf 4 f.channel.toNat
  let enable ← boolOf f.enable
  let direction ← channelDirectionOf f.direction
  let width ← widthOf f.width
  let mode ← channelModeOf f.mode
  let endMode ← endModeOf f.endMode
  if f.waitCount.toNat ≤ 7 ∧ f.readyTimeout ≠ 0 then
    some (n, ⟨enable, direction, width, mode, endMode, f.waitCount.toNat, f.readyTimeout.toNat,
      f.tenureLimit.toNat⟩)
  else none

/-- ChannelStage's checks (R124): the channel and the fresh block. -/
def checkStage (f : StageFields) : Option (Fin 4 × Block) := do
  let n ← finOf 4 f.channel.toNat
  let count ← checkCount f.count
  let step ← memStepOf f.step
  if f.offset.toNat < Config.memorySize then some (n, ⟨f.offset.toNat, count, step, 0, f.offset.toNat⟩) else none

/-- The configuration part of a line record. -/
structure LineConfig where
  role : LineRole
  mode : LineMode
  service : Service
  action : Option Op
  deriving DecidableEq, Repr

/-- LineSet's checks (R116). -/
def checkLine (f : LineFields) (data : List Byte) : Option (Fin 8 × LineConfig) := do
  let n ← finOf 8 f.line.toNat
  let role ← lineRoleOf f.role
  let mode ← lineModeOf f.mode
  let service ← serviceOf f.service
  let action ← admitAction f.action data
  if (role = .interrupt ∧ mode = .level ∧ service = .auto) ∨ (role = .trigger ∧ mode = .level) ∨
      (role ≠ .interrupt ∧ action ≠ none) then none
  else some (n, ⟨role, mode, service, action⟩)

/-- One slot of a WatchSet: nothing when it is refused, else the invalid or the valid slot (R143). -/
def checkWatchSlot (f : WatchSlotFields) : Option (Option WatchEntry) := do
  let valid ← boolOf f.valid
  if valid then do
    let card ← checkCardSide ⟨f.space, f.address, f.width⟩
    let report ← boolOf f.report
    if inWidth card.width f.mask then some (some ⟨card.space, card.address, card.width, f.mask, report⟩) else none
  else some none

/-- The settings and slots of a WatchSet. -/
structure WatchConfig where
  mode : WatchMode
  interval : Nat
  trigger : Option (Fin 8)
  slots : Vector (Option WatchEntry) 8
  deriving DecidableEq, Repr

/-- WatchSet's range checks (R143). -/
def checkWatch (f : WatchFields) : Option WatchConfig := do
  let mode ← watchModeOf f.mode
  let trigger ← triggerOf f.trigger
  if (List.finRange 8).all fun i => (checkWatchSlot f.slots[i]).isSome then
    some ⟨mode, f.interval.toNat, trigger, Vector.ofFn fun i => (checkWatchSlot f.slots[i]).join⟩
  else none

end Sys2Proof.Machine
end

