-- ==== Sys2Proof/Machine/Flags.lean ====
section
/-! DEFINITION. Flag computations: the conditions of Scan and Compare, saturating counters, the change test of the watch
unit, the merge rules of notice bodies, the outcome of a cycle. -/

namespace Sys2Proof.Machine

/-- A value of the width taken as a signed number (R87). -/
def signedValue (w : Width) (v : Word) : Int :=
  match w with
  | .one => (v.setWidth 8).toInt
  | .two => v.toInt

/-- The test of R87: `value` is the card value, `second` the operand of a Scan or the memory value of a Compare. -/
def Condition.holds (c : Condition) (w : Width) (value second mask : Word) : Bool :=
  let e := w.trim (value &&& mask)
  let v := w.trim (second &&& mask)
  match c with
  | .eq => e == v
  | .ne => e != v
  | .ult => decide (e.toNat < v.toNat)
  | .ule => decide (e.toNat ≤ v.toNat)
  | .ugt => decide (v.toNat < e.toNat)
  | .uge => decide (v.toNat ≤ e.toNat)
  | .slt => decide (signedValue w e < signedValue w v)
  | .sge => decide (signedValue w v ≤ signedValue w e)
  | .any => e != 0
  | .none => e == 0

/-- A counter that stops at its largest value. -/
def saturate (largest n : Nat) : Nat := min n largest

/-- The edge count of a line and of its notice (R107, R114). -/
def addEdges (a b : Nat) : Nat := saturate 255 (a + b)

/-- Occurrences, blocks done and the late count stop at 65535 (R155, R131, R33). -/
def addCount (a b : Nat) : Nat := saturate 65535 (a + b)

/-- The outcomes of a cycle (R6). -/
inductive CycleOutcome where
  | ok
  | readyTimeout
  | channelCheck
  deriving DecidableEq, Repr

/-- The outcome of a cycle that ends by its length or by SWAIT release (R6). -/
def cycleOutcome (sfault : Bool) : CycleOutcome := if sfault then .channelCheck else .ok

/-- Whether an entry of a completed pass is changed (R148). -/
def readingChanged (mask : Word) (before now : Option Reading) : Bool :=
  match before, now with
  | none, _ => true
  | some (.value a), some (.value b) => (a &&& mask) != (b &&& mask)
  | some (.fault a), some (.fault b) => a != b
  | some (.value _), some (.fault _) => true
  | some (.fault _), some (.value _) => true
  | some _, none => false

/-- The merge rule of LINE bodies (R114). -/
def mergeLine (old new : LineBody) : LineBody :=
  { new with
    edges := addEdges old.edges new.edges
    resultLost := old.resultLost || (old.status != .none) }

/-- The merge rule of CHANNEL bodies (R134): a fault kind already carried is kept. -/
def mergeChannel (old new : ChannelBody) : ChannelBody :=
  { new with fault := match new.fault with | some k => some k | none => old.fault }

/-- The merge rule of WATCH bodies (R149): sets joined, pass count and values from the newer posting. -/
def mergeWatch (old new : WatchBody) : WatchBody :=
  { new with changed := Vector.ofFn fun i => old.changed[i] || new.changed[i] }

/-- The merge rules by source kind (R155). -/
def mergeBody (old new : NoticeBody) : NoticeBody :=
  match old, new with
  | .line a, .line b => .line (mergeLine a b)
  | .channel a, .channel b => .channel (mergeChannel a b)
  | .watch a, .watch b => .watch (mergeWatch a b)
  | _, b => b

end Sys2Proof.Machine
end

