-- ==== Sys2Proof/Machine/Ops.lean ====
section
/-! DEFINITION. Named operations over the state: one update for each part, accessors of the numbered records, base
memory, the window lookup and the checks of an element, postings to the notice queue, endings of queue entries. -/

namespace Sys2Proof.Machine

/-! ## Updates -/

def State.setPending (s : State) (x : List Instr) : State := { s with pending := x }

def State.setLink (s : State) (x : Link) : State := { s with link := x }

def State.setWindows (s : State) (x : Vector (Option Window) 16) : State := { s with windows := x }

def State.setBus (s : State) (x : Bus) : State := { s with bus := x }

def State.setSfault (s : State) (x : Bool) : State := { s with sfault := x }

def State.setArbiter (s : State) (x : Arbiter) : State := { s with arbiter := x }

def State.setRefresh (s : State) (x : Refresh) : State := { s with refresh := x }

def State.setSreset (s : State) (x : SReset) : State := { s with sreset := x }

def State.setMem (s : State) (x : Mem) : State := { s with mem := x }

def State.setPort (s : State) (x : Port) : State := { s with port := x }

def State.setQueue (s : State) (x : Queue) : State := { s with queue := x }

def State.setEngine (s : State) (x : Engine) : State := { s with engine := x }

def State.setChannels (s : State) (x : Vector Channel 4) : State := { s with channels := x }

def State.setLines (s : State) (x : Vector Line 8) : State := { s with lines := x }

def State.setWatch (s : State) (x : Watch) : State := { s with watch := x }

def State.setNotices (s : State) (x : List Notice) : State := { s with notices := x }

def State.setFree (s : State) (x : Nat) : State := { s with free := x }

def State.channel (s : State) (n : Fin 4) : Channel := s.channels[n.val]

def State.setChannel (s : State) (n : Fin 4) (c : Channel) : State := s.setChannels (s.channels.set n.val c)

def State.line (s : State) (n : Fin 8) : Line := s.lines[n.val]

def State.setLine (s : State) (n : Fin 8) (l : Line) : State := s.setLines (s.lines.set n.val l)

def State.setCycle (s : State) (c : Option Cycle) : State := s.setBus { s.bus with cycle := c }

def State.setGroup (s : State) (g : Option Group) : State := s.setBus { s.bus with group := g }

def State.setRecord (s : State) (r : CycleRecord) : State := s.setBus { s.bus with record := r }

def State.setMaster (s : State) (m : Option MasterCycle) : State := s.setBus { s.bus with master := m }

def State.setSlot (s : State) (x : Slot) : State := s.setLink { s.link with slot := x }

def State.setElement (s : State) (e : Option Element) : State := s.setEngine { s.engine with element := e }

def State.setEngineState (s : State) (e : EngineState) : State := s.setEngine { s.engine with state := e }

/-- SRESET is asserted (R35). -/
def State.inSlotReset (s : State) : Bool := s.sreset != .released

/-! ## Base memory (R38) -/

/-- What an offset reads as: its listed byte, or 0. -/
def Mem.get : Mem → Nat → Byte
  | [], _ => 0
  | (k, b) :: m, a => if k = a then b else Mem.get m a

/-- Store one byte, keeping offsets rising and no byte 0 listed. -/
def Mem.put : Mem → Nat → Byte → Mem
  | [], a, v => if v = 0 then [] else [(a, v)]
  | (k, b) :: m, a, v =>
    if a < k then (if v = 0 then (k, b) :: m else (a, v) :: (k, b) :: m)
    else if a = k then (if v = 0 then m else (a, v) :: m)
    else (k, b) :: Mem.put m a v

/-- The canonical form: offsets strictly rising, no byte 0 listed. -/
def Mem.wf : Mem → Bool
  | [] => true
  | [(_, b)] => b != 0
  | (k, b) :: (k', b') :: m => b != 0 && decide (k < k') && Mem.wf ((k', b') :: m)

/-- A unit read: low byte at the lower offset (R38). -/
def Mem.readUnit (m : Mem) (a : Nat) (w : Width) : Word :=
  match w with
  | .one => byteValue (Mem.get m a)
  | .two => wordOf (Mem.get m a) (Mem.get m (a + 1))

/-- A unit stored: low byte at the lower offset (R38). -/
def Mem.writeUnit (m : Mem) (a : Nat) (w : Width) (v : Word) : Mem :=
  match w with
  | .one => Mem.put m a (lowByte v)
  | .two => Mem.put (Mem.put m a (lowByte v)) (a + 1) (highByte v)

/-! ## Window lookup (R15) and the checks of an element (R16) -/

def Window.matches (w : Window) (sp : Space) (a : Nat) : Bool :=
  decide (w.space = sp) && decide (w.base ≤ a) && decide (a ≤ w.limit)

def Window.attrs (w : Window) : Attrs := ⟨w.owner, w.width, w.waitCount, w.readyTimeout, w.writeProtect⟩

/-- The default attributes of an address in no window (R15). -/
def Attrs.default : Attrs := ⟨.card, .narrow, 1, Config.defaultReadyTimeout, false⟩

/-- The attributes of the valid entry of the space whose range contains the address (R15). -/
def lookup (ws : Vector (Option Window) 16) (sp : Space) (a : Nat) : Attrs :=
  (ws.toList.findSome? fun o =>
    match o with
    | some w => if w.matches sp a then some w.attrs else none
    | none => none).getD Attrs.default

/-- The checks of R16 in the order of its table: nothing, or the kind of the refusal. -/
def checkElement (at' : Attrs) (isWrite : Bool) (a : Nat) (w : Width) : Option FaultKind :=
  match at'.owner with
  | .blocked => some .windowBlocked
  | .card => if at'.writeProtect && isWrite then some .writeProtected else none
  | .baseMemory =>
    if at'.writeProtect && isWrite then some .writeProtected
    else if Config.memorySize < a + w.bytes then some .range
    else none

/-- The BASE_MEMORY window of a memory offset, looked up in MEMORY space, if it lies in one (R127, R43). -/
def baseWindow (ws : Vector (Option Window) 16) (off : Int) : Option Attrs :=
  if 0 ≤ off ∧ off < Config.memorySize then
    let a := lookup ws .memory off.toNat
    if a.owner = .baseMemory then some a else none
  else none

/-- The offset lies in a write-protected BASE_MEMORY window (R43). -/
def protectedOffset (ws : Vector (Option Window) 16) (off : Int) : Bool :=
  match baseWindow ws off with
  | some a => a.writeProtect
  | none => false

/-! ## Queue entries -/

def Entry.isFinished (e : Entry) : Bool :=
  match e.state with
  | .done | .failed | .cancelled | .flushed => true
  | .queued | .active => false

/-- The ACTIVE entry, if there is one (R51). -/
def Queue.active (q : Queue) : Option Entry := q.entries.find? fun e => e.state == .active

/-- Change the ACTIVE entry and no other. -/
def Queue.mapActive (q : Queue) (f : Entry → Entry) : Queue :=
  { q with entries := q.entries.map fun e => if e.state = .active then f e else e }

def State.mapActive (s : State) (f : Entry → Entry) : State := s.setQueue (s.queue.mapActive f)

/-- The ACTIVE entry reaches a finished state, its timer stopped (R51). -/
def State.endActive (s : State) (st : EntryState) : State :=
  s.mapActive fun e => { e with state := st, timer := none }

/-- The ACTIVE entry ends FAILED and `halted` is set (R62). -/
def State.failActive (s : State) (r : FailRecord) (values : Option (Word × Word)) : State :=
  let s := s.mapActive fun e =>
    { e with
      state := .failed, timer := none, fail := some r
      result := { e.result with values := match values with | some v => some v | none => e.result.values } }
  s.setQueue { s.queue with halted := true }

/-- An event of a source is delivered to an ACTIVE Await of that source, which ends DONE (R64). -/
def State.deliver (s : State) (src : AwaitSource) : State :=
  match s.queue.active with
  | some e =>
    match e.op with
    | .await src' _ => if src' = src then s.endActive .done else s
    | _ => s
  | none => s

/-! ## Postings (R155) -/

/-- A notice of the source is waiting. -/
def State.waitingNotice (s : State) (src : Source) : Bool := s.notices.any fun n => n.source == src

/-- A posting appends a notice at the tail or merges into the waiting one in its place. -/
def postTo (ns : List Notice) (src : Source) (b : NoticeBody) : List Notice :=
  if ns.any fun n => n.source == src then
    ns.map fun n => if n.source = src then ⟨n.source, addCount n.occurrences 1, mergeBody n.body b⟩ else n
  else ns ++ [⟨src, 1, b⟩]

def State.post (s : State) (src : Source) (b : NoticeBody) : State := s.setNotices (postTo s.notices src b)

/-! ## Replies of the immediate-reply slot (R165) -/

/-- The reply of an immediate request is formed: the slot goes READY. -/
def State.answer (s : State) (kind : Byte) (tag : Word) (st : Status) (b : ReplyBody) : State :=
  s.setSlot (.ready ⟨replyKind kind, st, tag, b⟩)

/-- The work a WORKING slot waits for has ended: its reply is formed with status OK. Another slot is left alone. -/
def State.finishWork (s : State) (w : Work) (b : ReplyBody) : State :=
  match s.link.slot with
  | .working w' kind tag => if w' = w then s.answer kind tag .ok b else s
  | _ => s

/-- The next free order of the run (log 6). -/
def State.takeFree (s : State) : Bool × State := (Config.freeOrder s.free, s.setFree (s.free + 1))

end Sys2Proof.Machine
end

