-- ==== Sys2Proof/Machine/Lines.lean ====
section
/-! DEFINITION. The interrupt unit (07): events of a line, the level rule, LINE postings, the endings of an action. -/

namespace Sys2Proof.Machine

/-- The kind byte of an operation (R174). -/
def Op.kind : Op → Byte
  | .read _ => 0x50
  | .write _ _ => 0x51
  | .modify _ _ _ => 0x52
  | .transfer _ _ _ _ _ => 0x53
  | .scan _ _ _ _ _ _ _ _ => 0x54
  | .compare _ _ _ _ _ _ _ => 0x55
  | .delay _ => 0x56
  | .await _ _ => 0x57
  | .slotReset _ => 0x58

/-- The result of the run as the record holds it (R113). -/
def Line.runResult (l : Line) : Option RunResult :=
  l.action.map fun op => ⟨op.kind, l.progress, l.result⟩

/-- A LINE posting: the body is formed from the record, the count becomes 0, an Await on the line gets its event
(R107, R113, R64). -/
def State.postLine (s : State) (n : Fin 8) (st : ActionStatus) (res : Option RunResult) : State :=
  let l := s.line n
  ((s.setLine n { l with edges := 0 }).post (.line n) (.line ⟨n, l.edges, st, res, false⟩)).deliver (.line n)

/-- Where a rule places the line in PENDING: a line without an action posts its notice at once instead and goes to
its post-notice state (R108). -/
def State.lineToPending (s : State) (n : Fin 8) : State :=
  let l := s.line n
  match l.action with
  | some _ => s.setLine n { l with state := .pending }
  | none =>
    let s := s.setLine n { l with state := (match l.service with | .hold => .inService | .auto => .idle) }
    s.postLine n .none none

/-- An event taken on an INTERRUPT line, by its state (R106, R107). -/
def State.lineEvent (s : State) (n : Fin 8) : State :=
  let l := { s.line n with edges := addEdges (s.line n).edges 1 }
  match l.state with
  | .disabled => s
  | .idle => (s.setLine n l).lineToPending n
  | .pending | .acting | .inService | .faulted => s.setLine n { l with again := true }

/-- The level rule: a LEVEL line that is IDLE with SINTn asserted takes an event at once, but not while SRESET is
asserted (R104, R118). -/
def State.lineLevelRule (s : State) (n : Fin 8) : State :=
  let l := s.line n
  if l.role = .interrupt ∧ l.mode = .level ∧ l.state = .idle ∧ l.level = true ∧ s.inSlotReset = false then
    s.lineEvent n
  else s

/-- The level rule for every line, at the release of SRESET (R118). The manual does not order the events of several
lines; the model takes them, and posts their notices, from line 0 to line 7 (log 24). -/
def State.linesLevelRule (s : State) : State := (List.finRange 8).foldl State.lineLevelRule s

/-- The engine takes a PENDING line: ACTING, the action progress initialised (R109). -/
def State.takeLine (s : State) (n : Fin 8) (start : Progress) : State :=
  s.setLine n { s.line n with state := .acting, progress := start, result := Gathered.empty, interval := none }

/-- An action has run to its end: notice with status OK, then by the service (R110). -/
def State.actionSuccess (s : State) (n : Fin 8) : State :=
  let s := s.postLine n .ok (s.line n).runResult
  let l := { s.line n with interval := none }
  match l.service with
  | .hold => s.setLine n { l with state := .inService }
  | .auto =>
    if l.again then s.setLine n { l with again := false, state := .pending }
    else s.setLine n { l with state := .idle }

/-- An action has failed: FAULTED, notice with the fail kind and details (R112). Its gathered result takes the values
the failing element left, if any (R75). -/
def State.actionFailure (s : State) (n : Fin 8) (r : FailRecord) (values : Option (Word × Word)) : State :=
  let l := s.line n
  let l := { l with
    state := .faulted, interval := none
    result := { l.result with values := match values with | some v => some v | none => l.result.values } }
  let s := s.setLine n l
  s.postLine n (.failed r) l.runResult

/-- The lowest-numbered PENDING line that has an action (R59, step 2). -/
def State.firstPending (s : State) : Option (Fin 8) :=
  (List.finRange 8).find? fun n => (s.line n).state == .pending && (s.line n).action.isSome

end Sys2Proof.Machine
end

