-- ==== Sys2Proof/Machine/WatchUnit.lean ====
section
/-! DEFINITION. The watch unit (09): starting, abandoning and ending reads, passes, change reporting. -/

namespace Sys2Proof.Machine

/-- The read in flight has been granted or is being served (R144). -/
def State.watchReadRunning (s : State) : Bool :=
  (match s.bus.group with | some g => g.user == .watch | none => false) ||
    (match s.port.turn with | some u => u.requester == .watch | none => false)

/-- How a restart treats the read in flight: a waiting one is withdrawn, a granted or served one runs to its end and
its outcome is discarded (R144). -/
def State.abandonRead (s : State) : State :=
  match s.watch.read with
  | none => s
  | some r =>
    if s.watchReadRunning then s.setWatch { s.watch with read := some { r with discard := true } }
    else (s.setWatch { s.watch with read := none }).setPort { s.port with watch := none }

/-- The pass in progress is discarded, its read in flight abandoned (R144, R152). -/
def State.discardPass (s : State) : State :=
  let s := s.abandonRead
  s.setWatch { s.watch with pass := readingsNone, next := 0 }

/-- A start taken in ARMED, SCANNING, RESTING, or by WatchStart in STOPPED: SCANNING from the first valid entry
(R144). -/
def State.watchBegin (s : State) : State :=
  let s := s.discardPass
  s.setWatch { s.watch with state := .scanning, rest := none }

/-- A trigger edge of line n: a start when the settings name the line, no effect in STOPPED (R105, R144). -/
def State.triggerEdge (s : State) (n : Fin 8) : State :=
  if s.watch.trigger = some n ∧ s.watch.state ≠ .stopped then s.watchBegin else s

/-- The next valid entry at or above the unit's position (R145). -/
def Watch.nextSlot (w : Watch) : Option (Fin 8) :=
  (List.finRange 8).find? fun i => decide (w.next ≤ i.val) && (w.slots[i.val]).isSome

/-- A reading goes into the pass in progress (R145, R146). -/
def Watch.recordReading (w : Watch) (i : Fin 8) (r : Reading) : Watch :=
  { w with pass := w.pass.set i.val (some r), next := i.val + 1 }

/-- An entry of the pass in progress differs from the snapshot (R148). -/
def Watch.entryChanged (w : Watch) (i : Fin 8) : Bool :=
  match w.slots[i.val] with
  | some e => readingChanged e.mask (w.snapshot.bind fun sn => sn[i.val]) w.pass[i.val]
  | none => false

/-- A changed entry whose report flag is set (R147, step 4). -/
def Watch.entryReported (w : Watch) (i : Fin 8) : Bool :=
  w.entryChanged i && (match w.slots[i.val] with | some e => e.report | none => false)

/-- The state after a completed pass, by the mode (R147, step 6). -/
def Watch.afterPass (w : Watch) : Watch :=
  match w.mode with
  | .single => { w with state := if w.trigger.isSome then .armed else .stopped }
  | .cyclic =>
    if w.interval = 0 then { w with state := .scanning }
    else { w with state := .resting, rest := some w.interval }

/-- The pass completes: snapshot replaced as a whole, pass count, notice, Await, next state (R147). -/
def State.watchComplete (s : State) : State :=
  let w := s.watch
  let reported := Vector.ofFn fun i : Fin 8 => w.entryReported i
  let w' := { w with snapshot := some w.pass, pass := readingsNone, next := 0, passCount := w.passCount + 1 }
  let s := s.setWatch w'
  let s :=
    if (List.finRange 8).any w.entryReported then
      s.post .watch (.watch ⟨w'.passCount, reported, w.pass⟩)
    else s
  let s := s.deliver .watch
  s.setWatch s.watch.afterPass

/-- A read starts: lookup and checks, then a WATCH claim or a WATCH unit; a refused read faults at once (R145). -/
def State.watchStartRead (s : State) (i : Fin 8) (e : WatchEntry) : State :=
  let at' := lookup s.windows e.space e.address
  match checkElement at' false e.address e.width with
  | some k => s.setWatch (s.watch.recordReading i (.fault k))
  | none =>
    let s := s.setWatch { s.watch with read := some ⟨i, e.space, e.address, e.width, at', false⟩ }
    match at'.owner with
    | .baseMemory => s.setPort { s.port with watch := some ⟨.watch, e.address, e.width, .read⟩ }
    | .card | .blocked => s

/-- A SCANNING unit with no read in flight starts its next read while SRESET is released; one that its checks refuse is
over at once, and the next follows (R145, R152). The first argument bounds the refused ones. -/
def State.watchReads : Nat → State → State
  | 0, s => s
  | fuel + 1, s =>
    if s.watch.state = .scanning ∧ s.watch.read = none ∧ s.inSlotReset = false then
      match s.watch.nextSlot with
      | none => s
      | some i =>
        match s.watch.slots[i.val] with
        | some e => State.watchReads fuel (s.watchStartRead i e)
        | none => s
    else s

/-- The stop that a WatchStop waits for is reached (R150). -/
def State.watchStopped (s : State) : State :=
  let s := s.setWatch { s.watch with
    state := .stopped, stopping := false, rest := none, pass := readingsNone, next := 0 }
  s.finishWork .watchStop (.watchState .stopped)

/-- The read in flight ends with a reading; a discarded outcome is dropped, and a waiting WatchStop is reached
(R145, R146, R144, R150). -/
def State.watchReadEnd (s : State) (r : Reading) : State :=
  match s.watch.read with
  | none => s
  | some rd =>
    let s := s.setWatch { s.watch with read := none }
    if s.watch.stopping then s.watchStopped
    else if rd.discard then s
    else s.setWatch (s.watch.recordReading rd.slot r)

end Sys2Proof.Machine
end

