-- ==== Sys2Proof/Machine/Dma.lean ====
section
/-! DEFINITION. The DMA controller (08): CHANNEL postings, faults, the checks and the start of an element, terminal
count, quiesce, the channel's side of a cascade tenure. -/

namespace Sys2Proof.Machine

/-- The remaining count of a CHANNEL body (R133). -/
def Channel.remaining (c : Channel) : Nat :=
  match c.current with
  | some b => b.count - b.done
  | none => 0

/-- A CHANNEL posting: a BLOCK_DONE that merges sets `overrun` first; the body is the record as it then stands
(R133, R134). -/
def State.postChannel (s : State) (n : Fin 4) (reason : Reason) : State :=
  let c := s.channel n
  let c := if reason = .blockDone ∧ s.waitingNotice (.channel n) = true then { c with overrun := true } else c
  let fault := if reason = .fault then c.fault else none
  (s.setChannel n c).post (.channel n)
    (.channel ⟨n, reason, c.blocksDone, c.state, c.overrun, c.starved, c.protectHit, fault, c.remaining⟩)

/-- A channel faults: FAULTED with the kind, blocks kept, FAULT posted (R132). -/
def State.channelFault (s : State) (n : Fin 4) (k : FaultKind) : State :=
  (s.setChannel n { s.channel n with state := .faulted, fault := some k }).postChannel n .fault

/-- The checks at an element's start, in order (R127). -/
def dmaRefusal (ws : Vector (Option Window) 16) (c : ChannelConfig) (b : Block) : Option FaultKind :=
  match baseWindow ws b.offset with
  | none => some .dmaAddress
  | some a =>
    if c.width = .two ∧ ¬ b.offset + 1 < Config.memorySize then some .range
    else if c.direction = .cardToMemory ∧ a.writeProtect = true then some .writeProtected
    else none

/-- The cycle of an element (R128): the offset on the address lines, the strobe by the direction, the programmed length
of R3, SLAST on the last element of the block, ADDRESS held while a read unit is due (R42). -/
def dmaCycle (n : Fin 4) (c : ChannelConfig) (b : Block) : Cycle where
  kind := .dma n
  address := b.offset.toNat
  isWrite := c.direction == .memoryToCard
  lanes := match c.width with | .one => .narrow | .two => .wide
  drive := 0
  programmed := 4 + c.waitCount
  readyTimeout := c.readyTimeout
  clock := 1
  held := false
  needsUnit := c.direction == .memoryToCard
  slast := b.done + 1 == b.count

/-- An element of a granted tenure starts, or is refused: the channel faults and its tenure ends (R127, R128). -/
def State.dmaElementStart (s : State) (n : Fin 4) : State :=
  let c := s.channel n
  match c.current with
  | none => (s.setChannel n { c with state := .idle }).setArbiter .idle
  | some b =>
    match dmaRefusal s.windows c.config b with
    | some k => (s.channelFault n k).setArbiter .idle
    | none =>
      let s := s.setChannel n { c with stopped := false }
      let s := s.setCycle (some (dmaCycle n c.config b))
      let s := s.setRecord ⟨.memory, b.offset.toNat, .channel n⟩
      if c.config.direction = .memoryToCard then
        s.setPort { s.port with bus := s.port.bus ++ [⟨.dmaRead n, b.offset.toNat, c.config.width, .read⟩] }
      else s

/-- The block after an element that ended OK (R129). -/
def Block.advance (b : Block) (w : Width) : Block :=
  { b with done := b.done + 1, offset := stepMemory b.step w b.offset }

/-- The block restored for RELOAD (R131). -/
def Block.reload (b : Block) : Block := { b with done := 0, offset := b.original }

/-- The tenure goes on past a terminal count with a staged block (R131, R28). -/
def Channel.continues (c : Channel) : Bool :=
  !c.quiescing && !c.stopped &&
    (match c.config.mode with | .block => true | .demand => c.sreq | .single | .cascade => false)

/-- Terminal count: blocks done, the slots, the state, BLOCK_DONE, the Await (R131). -/
def State.terminalCount (s : State) (n : Fin 4) (b : Block) : State :=
  let c := s.channel n
  let c := { c with blocksDone := addCount c.blocksDone 1 }
  let c :=
    match c.staged with
    | some st => { c with current := some st, staged := none, state := if c.continues then .moving else .ready }
    | none =>
      match c.config.endMode with
      | .reload => { c with current := some b.reload, state := .ready }
      | .once => { c with current := none, state := .idle }
  ((s.setChannel n c).postChannel n .blockDone).deliver (.channel n)

/-- The record with its blocks discarded and its status cleared, its configuration kept (R138). -/
def Channel.cleared (c : Channel) : Channel :=
  { c with
    current := none, staged := none, blocksDone := 0, overrun := false, starved := false, protectHit := false
    fault := none, quiescing := false, stopped := false }

/-- The state a quiesce leaves, by the state it finds (R138). -/
def Channel.quiesced (c : Channel) : ChannelState :=
  match c.state with
  | .off => .off
  | .idle | .ready | .moving | .faulted => .idle
  | .waiting => if c.sreq then .heldOff else .idle
  | .master | .heldOff => .heldOff

/-- The stop of a quiesce is reached: the channel is cleared, and a ChannelQuiesce that waits is answered (R138). -/
def State.channelStop (s : State) (n : Fin 4) : State :=
  let c := s.channel n
  let st := c.quiesced
  (s.setChannel n { c.cleared with state := st }).finishWork (.quiesce n) (.channelState st)

/-- A master's cycle is over for the B16: a waiting read unit is dropped, a store unit already requested is stored
without an owner (log 12). -/
def State.dropMaster (s : State) : State :=
  let p := s.port
  let orphan (u : MemUnit) : MemUnit :=
    if u.requester = .masterStore ∨ u.requester = .masterRead then { u with requester := .orphan } else u
  (s.setPort { p with
    bus := (p.bus.filter fun u => u.requester != .masterRead).map orphan
    turn := p.turn.map orphan }).setMaster none

/-- SGNTn is withdrawn from a cascade tenure: the timer stops; the grant point comes at once, or through HANDBACK when
the master's strobe is asserted (R30). -/
def State.withdrawGrant (s : State) (n : Fin 4) : State :=
  let s := s.setChannel n { s.channel n with tenureTimer := none }
  match s.bus.master with
  | some m => if m.strobe then s.setArbiter (.handback n) else s.dropMaster.setArbiter .idle
  | none => s.setArbiter .idle

/-- A quiesce is taken: at once, or at the boundary of a MOVING channel (R138). -/
def State.quiesceChannel (s : State) (n : Fin 4) : State :=
  match (s.channel n).state with
  | .moving => s.setChannel n { s.channel n with quiescing := true }
  | .master => (s.withdrawGrant n).channelStop n
  | .off | .idle | .ready | .waiting | .heldOff | .faulted => s.channelStop n

/-- What SREQn does to a channel at a slot clock: a non-cascade IDLE channel becomes starved (R126), a cascade IDLE
channel goes to WAITING while SRESET is released (R136). -/
def State.channelLevel (s : State) (n : Fin 4) : State :=
  let c := s.channel n
  if c.state = .idle ∧ c.sreq = true then
    if c.config.mode = .cascade then
      (if s.inSlotReset = false then s.setChannel n { c with state := .waiting } else s)
    else s.setChannel n { c with starved := true }
  else s

def State.channelLevels (s : State) : State := (List.finRange 4).foldl State.channelLevel s

/-- What an assertion of SRESET does to a channel (R139, R35). -/
def State.channelSresetAssert (s : State) (n : Fin 4) : State :=
  let c := s.channel n
  match c.state with
  | .moving => s.setChannel n { c with stopped := true }
  | .waiting | .heldOff => s.setChannel n { c with state := .idle }
  | .master => let s := s.withdrawGrant n; s.setChannel n { s.channel n with state := .idle }
  | .off | .idle | .ready | .faulted => s

/-- Transmission of a CHANNEL notice (R135). -/
def State.channelNoticeSent (s : State) (b : ChannelBody) : State :=
  let c := s.channel b.channel
  s.setChannel b.channel { c with
    blocksDone := c.blocksDone - b.blocksDone
    overrun := c.overrun && !b.overrun
    protectHit := c.protectHit && !b.protectHit }

end Sys2Proof.Machine
end

