-- ==== Sys2Proof/Machine/CycleUnit.lean ====
section
/-! DEFINITION. The cycle unit (01): the clocks of a cycle, the cycles of a locked group, the start of a group. -/

namespace Sys2Proof.Machine

/-! ## The clocks of a cycle (R3-R5) -/

/-- The state the cycle in progress is in (R3). -/
def Cycle.phase (c : Cycle) : CyclePhase :=
  if c.clock ≤ 1 then .address else if c.clock ≤ c.programmed then .strobe else .held

/-- What a clock, or a run of clocks, brings the cycle to. -/
inductive ClockResult where
  | running (c : Cycle)
  | ended
  | timedOut
  deriving DecidableEq, Repr

/-- One further strobe clock, at which SWAIT is sampled (R4, R5). A cycle with no SWAIT sampled ends at its programmed
length P; a held one at the first clock numbered P + 2 or later with SWAIT deasserted; a clock past P at whose end
SWAIT is asserted and the strobe time exceeds the timeout ends it READY_TIMEOUT. A refresh cycle does not sample. -/
def Cycle.clockStep (c : Cycle) (swait : Bool) : ClockResult :=
  let n := c.clock + 1
  let w := swait && c.kind != .refresh
  let held := c.held || (w && decide (n ≤ c.programmed))
  if n < c.programmed then .running { c with clock := n, held := held }
  else if n = c.programmed then (if held then .running { c with clock := n, held := held } else .ended)
  else if w then
    (if Config.clocksPerMicrosecond * c.readyTimeout < n - 1 then .timedOut
      else .running { c with clock := n, held := held })
  else if c.programmed + 2 ≤ n then .ended
  else .running { c with clock := n, held := held }

/-- The clocks of a list of SWAIT samples, up to the cycle's end. -/
def Cycle.run : List Bool → Cycle → ClockResult
  | [], c => .running c
  | w :: ws, c =>
    match c.clockStep w with
    | .running c' => Cycle.run ws c'
    | .ended => .ended
    | .timedOut => .timedOut

/-- The base length of a memory or I/O cycle (R3). -/
def baseLength : Space → Nat
  | .memory => 3
  | .io => 4

def refreshLength : Nat := 4

/-- The refresh cycle: the row counter on the address lines, four clocks (R25). -/
def refreshCycle (row : BitVec 8) : Cycle :=
  ⟨.refresh, row.toNat, false, .narrow, 0, refreshLength, 0, 1, false, false, false⟩

/-! ## The cycles of a locked group (R10-R13, R74) -/

/-- The value the write cycles of a group carry. -/
def Group.writeValue (g : Group) : Word :=
  match g.op with
  | .write v => v
  | .modify _ _ => g.new
  | .read => 0

/-- How many data lines the group's current cycle uses: the second of a pair is narrow; the first follows the width
and the window; a Modify writes as it read (R10, R11, R12). -/
def Group.lanes (g : Group) : Lanes :=
  match g.pos with
  | .read2 | .write2 => .narrow
  | .read1 =>
    match g.width, g.attrs.width with
    | .one, _ => .narrow
    | .two, .narrow => .narrow
    | .two, .wide | .two, .sense => .wide
  | .write1 =>
    match g.width with
    | .one => .narrow
    | .two =>
      match g.op with
      | .modify _ _ => if g.isSplit then .narrow else .wide
      | .read | .write _ => match g.attrs.width with | .narrow => .narrow | .wide | .sense => .wide

/-- The address of the group's current cycle: the second of a pair goes to the address plus one, wrapped (R1, R12). -/
def Group.cycleAddress (g : Group) : Nat :=
  match g.pos with
  | .read1 | .write1 => g.address
  | .read2 | .write2 => wrapAddress g.space ((g.address : Int) + 1)

/-- The data driven by a write cycle: the whole value, or the byte of the half on SD0-SD7 (R10). -/
def Group.drive (g : Group) : Word :=
  match g.pos with
  | .read1 | .read2 => 0
  | .write1 => match g.lanes with | .wide => g.writeValue | .narrow => byteValue (lowByte g.writeValue)
  | .write2 => byteValue (highByte g.writeValue)

def Group.writes (g : Group) : Bool :=
  match g.pos with
  | .read1 | .read2 => false
  | .write1 | .write2 => true

/-- The current cycle of a group (R3, R10): length and timeout from the window of the element. -/
def Group.cycle (g : Group) : Cycle where
  kind := match g.space with | .memory => .memory | .io => .io
  address := g.cycleAddress
  isWrite := g.writes
  lanes := g.lanes
  drive := g.drive
  programmed := baseLength g.space + g.attrs.waitCount
  readyTimeout := g.attrs.readyTimeout
  clock := 1
  held := false
  needsUnit := false
  slast := false

/-- What follows a cycle of the group that ended OK: another cycle, or the end with the values of the element (the
value read; the old and the new value of a Modify). -/
inductive GroupNext where
  | more (g : Group)
  | finished (v1 v2 : Word)
  deriving DecidableEq, Repr

/-- The read half has completed with a value: a Read is finished; a Modify forms its new value and goes on to its first
write (R73, R74). -/
def Group.readComplete (g : Group) (v : Word) (isSplit : Bool) : GroupNext :=
  match g.op with
  | .read | .write _ => .finished v 0
  | .modify a o =>
    .more { g with
      pos := .write1, old := v, new := modifyValue g.width v a o, readDone := true, isSplit := isSplit }

/-- The step of a group at the end of a cycle that ended OK, by SWIDE and the data lines sampled there (R10, R11, R12,
R74). -/
def Group.next (g : Group) (swide : Bool) (lines : Word) : GroupNext :=
  match g.pos with
  | .read1 =>
    match g.width with
    | .one => g.readComplete (byteValue (lowByte lines)) false
    | .two =>
      match g.attrs.width with
      | .wide => g.readComplete lines false
      | .narrow => .more { g with pos := .read2, old := byteValue (lowByte lines), isSplit := true }
      | .sense =>
        if swide then g.readComplete lines false
        else .more { g with pos := .read2, old := byteValue (lowByte lines), isSplit := true }
  | .read2 => g.readComplete (wordOf (lowByte g.old) (lowByte lines)) true
  | .write1 =>
    match g.width with
    | .one => .finished g.old g.new
    | .two =>
      match g.op with
      | .modify _ _ => if g.isSplit then .more { g with pos := .write2, written := true } else .finished g.old g.new
      | .read | .write _ =>
        match g.attrs.width with
        | .wide => .finished 0 0
        | .narrow => .more { g with pos := .write2, written := true, isSplit := true }
        | .sense =>
          if swide then .finished 0 0 else .more { g with pos := .write2, written := true, isSplit := true }
  | .write2 => .finished g.old g.new

/-- The values a failed group leaves: old and new when the read half of a Modify completed (R75). -/
def Group.failValues (g : Group) : Option (Word × Word) :=
  match g.op with
  | .modify _ _ => if g.readDone then some (g.old, g.new) else none
  | .read | .write _ => none

/-- A cycle of a group begins: the record of R7 is written in its ADDRESS clock. -/
def State.startGroupCycle (s : State) (g : Group) : State :=
  ((s.setGroup (some g)).setCycle (some g.cycle)).setRecord ⟨g.space, g.cycleAddress, g.owner⟩

/-- The first position of a group: a plain write has no read (R12). -/
def ElementOp.firstPos : ElementOp → GroupPos
  | .read => .read1
  | .modify _ _ => .read1
  | .write _ => .write1

/-- The locked group of the engine's element (R26). -/
def Element.group (e : Element) : Group :=
  ⟨.engine, e.owner, e.space, e.address, e.width, e.attrs, e.op, e.op.firstPos, 0, 0, false, false, false⟩

/-- The locked group of a watch read (R145). -/
def WatchRead.group (r : WatchRead) : Group :=
  ⟨.watch, .watch, r.space, r.address, r.width, r.attrs, .read, .read1, 0, 0, false, false, false⟩

end Sys2Proof.Machine
end

