-- ==== Sys2Proof/Machine/SlotArbiter.lean ====
section
/-! DEFINITION. The slot arbiter (02): the claims as the owners' records give them, grants, grant points, the
boundaries of DMA tenures, refresh. -/

namespace Sys2Proof.Machine

/-! ## Claims (R22) -/

/-- Channel n's claim: READY with a block while SREQn is asserted, or WAITING (R125). -/
def Channel.claims (c : Channel) : Bool :=
  match c.state with
  | .ready => c.sreq && c.current.isSome
  | .waiting => true
  | .off | .idle | .moving | .master | .heldOff | .faulted => false

/-- A locked group of this user is running. -/
def State.groupOf (s : State) (u : GroupUser) : Bool :=
  match s.bus.group with
  | some g => g.user == u
  | none => false

/-- ENGINE's claim: a started element in a CARD window at its card part, not yet granted. -/
def State.engineClaims (s : State) : Bool :=
  match s.engine.element with
  | some e => e.stage == .card && e.attrs.owner == .card && !s.groupOf .engine
  | none => false

/-- WATCH's claim: a started read in a CARD window, not yet granted. -/
def State.watchClaims (s : State) : Bool :=
  match s.watch.read with
  | some r => r.attrs.owner == .card && !s.groupOf .watch
  | none => false

def State.claims (s : State) : Claimant → Bool
  | .refresh => s.refresh.pending
  | .channel n => (s.channel n).claims
  | .engine => s.engineClaims
  | .watch => s.watchClaims

/-- The seven claimants, highest priority first (R22). -/
def claimants : List Claimant :=
  [.refresh, .channel 0, .channel 1, .channel 2, .channel 3, .engine, .watch]

/-- The waiting claimant of highest priority the arbiter may grant: REFRESH alone while SRESET is asserted (R24, R35);
`except` takes no part in this grant point (R27). -/
def State.bestClaim (s : State) (except : Option Claimant) : Option Claimant :=
  claimants.find? fun c => s.claims c && (!s.inSlotReset || c == .refresh) && (some c != except)

/-! ## Grants (R24) -/

/-- The refresh cycle starts: the grant clears the pending flag (R25). -/
def State.startRefresh (s : State) (a : Arbiter) : State :=
  ((s.setArbiter a).setRefresh { s.refresh with pending := false }).setCycle (some (refreshCycle s.refresh.row))

/-- A channel's grant: a cascade channel goes to MASTER and its tenure timer starts, unless SREQn has fallen; another
goes to MOVING and its first element starts (R30, R136, R125). -/
def State.grantChannel (s : State) (n : Fin 4) : State :=
  let c := s.channel n
  if c.config.mode = .cascade then
    if c.sreq then
      (s.setChannel n { c with
        state := .master, tenureTimer := if c.config.tenureLimit = 0 then none else some c.config.tenureLimit
        }).setArbiter (.granted (.channel n))
    else (s.setChannel n { c with state := .idle }).setArbiter .idle
  else ((s.setChannel n { c with state := .moving }).setArbiter (.granted (.channel n))).dmaElementStart n

/-- The grant of one claimant. -/
def State.grant (s : State) : Claimant → State
  | .refresh => s.startRefresh (.granted .refresh)
  | .channel n => s.grantChannel n
  | .engine =>
    match s.engine.element with
    | some e => (s.setArbiter (.granted .engine)).startGroupCycle e.group
    | none => s
  | .watch =>
    match s.watch.read with
    | some r => (s.setArbiter (.granted .watch)).startGroupCycle r.group
    | none => s

/-- A grant point while the arbiter is IDLE: the waiting claimant of highest priority is granted; a channel whose
element is refused gives the next grant point at once (R24, R127). The first argument bounds the refusals. `ex` takes
no part in the grant points that such refusals give either: the manual does not order a SINGLE channel's renewed claim
against them, and the model lets the claim come after them (log 22). -/
def State.arbitrateExcept : Nat → Option Claimant → State → State
  | 0, _, s => s
  | fuel + 1, ex, s =>
    if s.arbiter = .idle then
      match s.bestClaim ex with
      | some c => State.arbitrateExcept fuel ex (s.grant c)
      | none => s
    else s

/-- As many rounds as there are claimants. -/
def arbiterFuel : Nat := 8

def State.arbitrate (s : State) : State := State.arbitrateExcept arbiterFuel none s

/-! ## Boundaries of DMA tenures (R27, R28, R29) -/

/-- The tenure ends: the channel rests in READY or IDLE unless it is FAULTED, a quiesce reaches its stop, and the
boundary is a grant point. `except` is the channel when it takes no part in it (R27). -/
def State.endTenure (s : State) (n : Fin 4) (except : Bool) : State :=
  let c := s.channel n
  let st : ChannelState :=
    if c.state = .faulted then .faulted else if c.current.isSome then .ready else .idle
  let s := s.setChannel n { c with state := st, stopped := false }
  let s := if c.quiescing then s.channelStop n else s
  State.arbitrateExcept arbiterFuel (if except then some (.channel n) else none) (s.setArbiter .idle)

/-- Some other claimant waits, so that it matters whether the channel's renewed claim is there at the grant point. -/
def State.otherClaim (s : State) (n : Fin 4) : Bool :=
  claimants.any fun c => s.claims c && c != .channel n

/-- The end of a tenure by the completion of a block with nothing staged (R28, check 2). Whether a reloaded channel's
claim arrives at this grant point or after it is open: a free order, when another claimant waits (log 6). -/
def State.endReloadTenure (s : State) (n : Fin 4) : State :=
  if s.otherClaim n then
    let (first, s) := s.takeFree
    s.endTenure n (!first)
  else s.endTenure n false

/-- The boundary of a channel's tenure after an element or an inserted refresh; `ended` says that the element completed
the block with nothing staged (R27, R28, R29). A DEMAND or BLOCK tenure ended by check 1 through an SRESET that is released
again before the boundary: the manual does not say whether the channel's renewed claim is there at this grant point, and
the model lets it take part (log 25). -/
def State.dmaBoundary (s : State) (n : Fin 4) (ended : Bool) : State :=
  let c := s.channel n
  if c.config.mode = .single then s.endTenure n true
  else if c.quiescing = true ∨ c.stopped = true then s.endTenure n false
  else if ended then s.endReloadTenure n
  else if c.config.mode = .demand ∧ c.sreq = false then s.endTenure n false
  else if s.refresh.pending then s.startRefresh (.insertedRefresh n)
  else s.dmaElementStart n

/-- The end of a refresh cycle: the row counter increments; an inserted refresh gives the bus back to its channel,
whose boundary is taken anew (R25, R29). -/
def State.refreshCycleEnd (s : State) : State :=
  let s := s.setRefresh { s.refresh with row := s.refresh.row + 1 }
  match s.arbiter with
  | .insertedRefresh n => (s.setArbiter (.granted (.channel n))).dmaBoundary n false
  | .idle | .granted _ | .handback _ => s.setArbiter .idle

/-- The withdrawal or end that HANDBACK waits for has come: the grant point (R30). -/
def State.handbackEnd (s : State) : State :=
  match s.arbiter with
  | .handback _ => s.setArbiter .idle
  | .idle | .granted _ | .insertedRefresh _ => s

/-! ## Refresh timer (R32, R33) -/

/-- An expiry of the running timer: the flag becomes set, or the refresh is late and is reported. The timer restarts
with the period in force. -/
def State.refreshExpiry (s : State) : State :=
  match s.refresh.timer with
  | none => s
  | some _ =>
    let r := { s.refresh with timer := some s.refresh.period }
    if r.pending then
      let late := addCount r.late 1
      (s.setRefresh { r with late := late }).post .refresh (.refresh late)
    else s.setRefresh { r with pending := true }

end Sys2Proof.Machine
end

