-- ==== Sys2Proof/Machine/MemoryPort.lean ====
section
/-! DEFINITION. The memory port (03): the choice of the next unit, what a unit does to base memory, the link-side
request in progress. -/

namespace Sys2Proof.Machine

/-- The slot-side unit that takes the next slot turn: the oldest BUS unit, then ENGINE, then WATCH (R41). Two units
that arrive together at a free port may be taken in either order (R41); where both arise in one step the model takes
them in this order too (log 23). -/
def Port.slotUnit (p : Port) : Option MemUnit :=
  match p.bus with
  | u :: _ => some u
  | [] =>
    match p.engine with
    | some u => some u
    | none => p.watch

/-- The unit taken out of the waiting slot-side units. -/
def Port.dropSlotUnit (p : Port) : Port :=
  match p.bus with
  | _ :: us => { p with bus := us }
  | [] =>
    match p.engine with
    | some _ => { p with engine := none }
    | none => { p with watch := none }

/-- The width of the next link-side unit: the pair at offsets 2k and 2k + 1, reduced to the range (R40). -/
def LinkJob.width (j : LinkJob) : Width := if j.next % 2 = 0 ∧ j.next + 1 < j.stop then .two else .one

/-- The next unit of the link-side request (R40, R44-R46). -/
def LinkJob.unit (j : LinkJob) : MemUnit where
  requester := .link
  offset := j.next
  width := j.width
  op :=
    match j.work with
    | .read _ => .read
    | .write rest => .write (inlineValue j.width rest 0)
    | .fill b => .write (wordOf b b)

/-- The choice of the next unit while no turn is in progress: the side not served last when both wait (R41). -/
def Port.choose (p : Port) : Port :=
  match p.turn with
  | some _ => p
  | none =>
    match p.slotUnit, p.link with
    | some u, some j =>
      if p.last = .link then { p.dropSlotUnit with turn := some u, last := .slot }
      else { p with turn := some j.unit, last := .link }
    | some u, none => { p.dropSlotUnit with turn := some u, last := .slot }
    | none, some j => { p with turn := some j.unit, last := .link }
    | none, none => p

def State.portChoose (s : State) : State := s.setPort s.port.choose

/-- What serving a unit does: the memory after it, the value read (the old value of a Modify), the value written
(R40, R17). -/
def MemUnit.serve (u : MemUnit) (m : Mem) : Mem × Word × Word :=
  let old := Mem.readUnit m u.offset u.width
  match u.op with
  | .read => (m, old, 0)
  | .write v => (Mem.writeUnit m u.offset u.width v, old, v)
  | .modify a o =>
    let new := modifyValue u.width old a o
    (Mem.writeUnit m u.offset u.width new, old, new)

/-- The link-side request after its unit has been served: bytes gathered or used up, the next offset. -/
def LinkJob.advance (j : LinkJob) (value : Word) : LinkJob :=
  let n := j.width.bytes
  { j with
    next := j.next + n
    work :=
      match j.work with
      | .read g => .read (g ++ valueBytes j.width value)
      | .write rest => .write (rest.drop n)
      | .fill b => .fill b }

/-- The reply body of a link-side request whose last unit has been served (R44-R46). -/
def LinkWork.replyBody : LinkWork → ReplyBody
  | .read g => .bytes g
  | .write _ => .none
  | .fill _ => .none

/-- A link-side unit has been served: the request goes on, or its reply is formed (R44-R46). -/
def State.linkUnitServed (s : State) (value : Word) : State :=
  match s.port.link with
  | none => s
  | some j =>
    let j' := j.advance value
    if j'.next < j'.stop then s.setPort { s.port with link := some j' }
    else (s.setPort { s.port with link := none }).finishWork .memory j'.work.replyBody

/-- The read unit of a MEMORY_TO_CARD element has been served: its data is driven, its strobe may begin (R42). -/
def State.dmaReadServed (s : State) (n : Fin 4) (value : Word) : State :=
  match s.bus.cycle with
  | some c =>
    if c.kind = .dma n ∧ c.needsUnit = true then s.setCycle (some { c with drive := value, needsUnit := false })
    else s
  | none => s

/-- A master's read unit has been served: its data is driven and SWAIT released (R42). -/
def State.masterReadServed (s : State) (value : Word) : State :=
  match s.bus.master with
  | some m =>
    if m.answer = .readWait then s.setMaster (some { m with answer := .readServed value }) else s
  | none => s

/-- A master's store unit has been stored: SWAIT is released (R42). -/
def State.masterStoreServed (s : State) : State :=
  match s.bus.master with
  | some m => if m.answer = .writeWait then s.setMaster (some { m with answer := .writeStored }) else s
  | none => s

/-- A link-side request begins: the slot goes WORKING and its units wait at the port (R44-R46, R165). -/
def State.startLinkJob (s : State) (kind : Byte) (tag : Word) (j : LinkJob) : State :=
  let s := s.setSlot (.working .memory kind tag)
  (s.setPort { s.port with link := some j }).portChoose

end Sys2Proof.Machine
end

