-- ==== Sys2Proof/Machine/SlotReset.lean ====
section
/-! DEFINITION. SRESET (R35, R66, R118, R139, R152): what its assertion and its release do in every block. -/

namespace Sys2Proof.Machine

/-- SRESET becomes asserted by a SlotReset entry: tenures end by their kind, cascade channels go IDLE, a pass in
progress is discarded (R35, R139, R152). -/
def State.sresetAssert (s : State) : State :=
  let s := s.setSreset .slotReset
  let s := (List.finRange 4).foldl State.channelSresetAssert s
  if s.watch.state = .scanning then s.discardPass else s

/-- SRESET is released: LEVEL lines that are IDLE and asserted take their events (R118). -/
def State.sresetRelease (s : State) : State := (s.setSreset .released).linesLevelRule

/-- What follows a release before the engine chooses again: cascade channels with SREQ asserted claim, a SCANNING watch
unit begins its pass, and an IDLE arbiter and a free port take what then waits, so that the release is a grant point
even where the engine's next choice is a further SlotReset (R35, R139, R152, R24, R41; log 16). -/
def State.sresetGrants (s : State) : State :=
  (State.watchReads 8 s.channelLevels).arbitrate.portChoose

/-- SRESET is released with every effect of a release (R35, R66, R118, R139, R152). -/
def State.sresetReleased (s : State) : State := s.sresetRelease.sresetGrants

end Sys2Proof.Machine
end

