-- ==== Sys2Proof/Machine/Engine.lean ====
section
/-! DEFINITION. The operation engine (04, 4.5; 05; 06): the plan of an element, its checks, its parts, its boundary,
the engine's choice. -/

namespace Sys2Proof.Machine

/-! ## Operations -/

/-- The card side of an element-based operation. -/
def Op.cardSide : Op → Option CardSide
  | .read c => some c
  | .write c _ => some c
  | .modify c _ _ => some c
  | .transfer _ c _ _ _ => some c
  | .scan c _ _ _ _ _ _ _ => some c
  | .compare c _ _ _ _ _ _ => some c
  | .delay _ => none
  | .await _ _ => none
  | .slotReset _ => none

/-- The starting progress of an operation (R49, R76, R78, R109). -/
def Op.start : Op → Progress
  | .read c => ⟨0, c.address, 0⟩
  | .write c _ => ⟨0, c.address, 0⟩
  | .modify c _ _ => ⟨0, c.address, 0⟩
  | .transfer _ c _ _ (.base off _) => ⟨0, c.address, off⟩
  | .transfer _ c _ _ (.inline _) => ⟨0, c.address, 0⟩
  | .scan c _ _ _ _ _ _ (some cap) => ⟨0, c.address, cap⟩
  | .scan c _ _ _ _ _ _ none => ⟨0, c.address, 0⟩
  | .compare c _ off _ _ _ _ => ⟨0, c.address, off⟩
  | .delay _ => ⟨0, 0, 0⟩
  | .await _ _ => ⟨0, 0, 0⟩
  | .slotReset _ => ⟨0, 0, 0⟩

/-- The interval between the reads of a Scan (R92). -/
def Op.interval : Op → Nat
  | .scan _ _ _ _ _ _ i _ => i
  | _ => 0

/-- The wait timer an operation starts with when it is activated: a Delay, an Await, a SlotReset (R63, R64, R66). -/
def Op.wait : Op → Option Nat
  | .delay d => some d
  | .await _ t => some t
  | .slotReset d => some d
  | _ => none

/-! ## The start of an element (R60, R79, R89, R95) -/

/-- An element that starts, or its refusal with the fail record. -/
inductive Plan where
  | start (e : Element)
  | refuse (r : FailRecord)
  deriving DecidableEq, Repr

def ElementOp.isWrite : ElementOp → Bool
  | .read => false
  | .write _ => true
  | .modify _ _ => true

/-- The card side of an element at the card pointer, by R16. -/
def planCard (ws : Vector (Option Window) 16) (item : WorkItem) (owner : CycleOwner) (c : CardSide) (a : Nat)
    (op : ElementOp) (after : AfterPart) (stage : Stage) : Plan :=
  let at' := lookup ws c.space a
  match checkElement at' op.isWrite a c.width with
  | some k => .refuse ⟨k, some (c.space, (a : Int)), false⟩
  | none => .start ⟨item, owner, c.space, a, c.width, at', op, after, stage, 0⟩

/-- The memory-side checks of an element: the unit lies inside base memory, and a store does not fall in a
write-protected window (R79 steps 2 and 3, R89, R95). -/
def checkMemory (ws : Vector (Option Window) 16) (store : Bool) (w : Width) (off : Int) : Option FailRecord :=
  if off < 0 ∨ (Config.memorySize : Int) < off + w.bytes then some ⟨.range, some (.memory, off), false⟩
  else if store && protectedOffset ws off then some ⟨.writeProtected, some (.memory, off), false⟩
  else none

/-- A plan whose memory side is checked after its card side. -/
def Plan.withMemory (p : Plan) (r : Option FailRecord) : Plan :=
  match p with
  | .refuse f => .refuse f
  | .start e =>
    match r with
    | some f => .refuse f
    | none => .start e

/-- The next element of an operation from its progress; nothing for the kinds without elements. -/
def planElement (ws : Vector (Option Window) 16) (item : WorkItem) (owner : CycleOwner) (op : Op) (p : Progress) :
    Option Plan :=
  match op with
  | .read c => some (planCard ws item owner c p.card .read .nothing .card)
  | .write c v => some (planCard ws item owner c p.card (.write v) .nothing .card)
  | .modify c a o => some (planCard ws item owner c p.card (.modify a o) .nothing .card)
  | .transfer .into c _ _ (.base _ _) =>
    some ((planCard ws item owner c p.card .read (.store p.mem.toNat) .card).withMemory
      (checkMemory ws true c.width p.mem))
  | .transfer .into c _ _ (.inline _) => some (planCard ws item owner c p.card .read .nothing .card)
  | .transfer .out c _ _ (.base _ _) =>
    some ((planCard ws item owner c p.card (.write 0) .nothing (.memoryFirst p.mem.toNat)).withMemory
      (checkMemory ws false c.width p.mem))
  | .transfer .out c _ _ (.inline data) =>
    some (planCard ws item owner c p.card (.write (inlineValue c.width data p.mem.toNat)) .nothing .card)
  | .scan c _ _ _ _ _ _ (some _) =>
    some ((planCard ws item owner c p.card .read (.store p.mem.toNat) .card).withMemory
      (checkMemory ws true c.width p.mem))
  | .scan c _ _ _ _ _ _ none => some (planCard ws item owner c p.card .read .nothing .card)
  | .compare c _ _ _ _ _ _ =>
    some ((planCard ws item owner c p.card .read (.fetch p.mem.toNat) .card).withMemory
      (checkMemory ws false c.width p.mem))
  | .delay _ => none
  | .await _ _ => none
  | .slotReset _ => none

/-- An ENGINE unit is requested at the memory port (R41). -/
def State.engineUnit (s : State) (off : Nat) (w : Width) (op : UnitOp) : State :=
  s.setPort { s.port with engine := some ⟨.engine, off, w, op⟩ }

def ElementOp.unitOp : ElementOp → UnitOp
  | .read => .read
  | .write v => .write v
  | .modify a o => .modify a o

/-- The card part is due: a unit at the port for a BASE_MEMORY window (R17); a claim of ENGINE, which the element
itself is, for a CARD window. -/
def State.startCardPart (s : State) (e : Element) : State :=
  match e.attrs.owner with
  | .baseMemory => s.engineUnit e.address e.width e.op.unitOp
  | .card | .blocked => s

/-- An element starts: it is the element in flight and its first part is due (R60, R80, R81). -/
def State.startElement (s : State) (e : Element) : State :=
  let s := s.setElement (some e)
  match e.stage with
  | .memoryFirst off => s.engineUnit off e.width .read
  | .card => s.startCardPart e
  | .memoryLast => s

/-! ## The boundary of an element (R60, R83, R90, R96) -/

/-- What a completed element makes of the progress and the result, and whether the work is complete: `v1` is the value
read, or the old value of a Modify; `v2` the new value of a Modify, or the memory value of a Compare. -/
def Op.advance (op : Op) (p : Progress) (r : Gathered) (v1 v2 : Word) : Progress × Gathered × Bool :=
  match op with
  | .read _ => ({ p with done := 1 }, { r with values := some (v1, 0) }, true)
  | .write _ _ => ({ p with done := 1 }, r, true)
  | .modify _ _ _ => ({ p with done := 1 }, { r with values := some (v1, v2) }, true)
  | .transfer dir c st count side =>
    let done := p.done + 1
    let card := stepCard st c.width c.space p.card
    let mem := match side with | .base _ ms => stepMemory ms c.width p.mem | .inline _ => p.mem + c.width.bytes
    let data :=
      match dir, side with
      | .into, .inline _ => r.data ++ valueBytes c.width v1
      | .into, .base _ _ => r.data
      | .out, _ => r.data
    (⟨done, card, mem⟩, { r with data := data }, done == count)
  | .scan c st count cond operand mask _ cap =>
    let done := p.done + 1
    let hit := cond.holds c.width v1 operand mask
    let last := done == count
    (⟨done, stepCard st c.width c.space p.card, if cap.isSome then p.mem + c.width.bytes else p.mem⟩,
      { r with values := some (v1, 0), matched := hit, exhausted := last }, hit || last)
  | .compare c st _ ms count cond mask =>
    let done := p.done + 1
    let hit := cond.holds c.width v1 v2 mask
    let last := done == count
    (⟨done, stepCard st c.width c.space p.card, stepMemory ms c.width p.mem⟩,
      { r with values := some (v1, v2), matched := hit, exhausted := last }, hit || last)
  | .delay _ => (p, r, true)
  | .await _ _ => (p, r, true)
  | .slotReset _ => (p, r, true)

/-- The ACTIVE entry after a completed element: DONE when its work is complete, else CANCELLED when the mark is set,
else it goes on, through its interval if it has one (R58, R83, R90, R92). -/
def Entry.boundary (e : Entry) (v1 v2 : Word) : Entry :=
  let (p, r, complete) := e.op.advance e.progress e.result v1 v2
  let e := { e with progress := p, result := r }
  if complete then { e with state := .done }
  else if e.cancel then { e with state := .cancelled }
  else { e with timer := if e.op.interval = 0 then none else some e.op.interval }

/-- A line action after a completed element (R109, R101). -/
def State.actionBoundary (s : State) (n : Fin 8) (v1 v2 : Word) : State :=
  let l := s.line n
  match l.action with
  | none => s.setEngineState .idle
  | some op =>
    let (p, r, complete) := op.advance l.progress l.result v1 v2
    let s := s.setLine n { l with
      progress := p, result := r, interval := if op.interval = 0 then none else some op.interval }
    if complete then (s.actionSuccess n).setEngineState .idle else s

/-- The boundary of an element that ended OK, by whose element it is (R60, R68). -/
def State.elementBoundary (s : State) (e : Element) (v1 v2 : Word) : State :=
  let s := s.setElement none
  match e.item with
  | .entry => s.mapActive fun en => en.boundary v1 v2
  | .orphan => s.setEngineState .idle
  | .line n => s.actionBoundary n v1 v2

/-- The failure of an element: the entry FAILED and `halted` set, or the line FAULTED; the failure of an orphan is
discarded (R62, R68, R112). -/
def State.itemFailed (s : State) (item : WorkItem) (r : FailRecord) (values : Option (Word × Word)) : State :=
  let s := s.setElement none
  match item with
  | .entry => (s.failActive r values).setEngineState .idle
  | .orphan => s.setEngineState .idle
  | .line n => (s.actionFailure n r values).setEngineState .idle

/-- The card part has ended OK: the memory part follows, or the element ends (R80, R89, R95). -/
def State.cardPartDone (s : State) (e : Element) (v1 v2 : Word) : State :=
  match e.after with
  | .nothing => s.elementBoundary e v1 v2
  | .store off => (s.setElement (some { e with stage := .memoryLast, value := v1 })).engineUnit off e.width (.write v1)
  | .fetch off => (s.setElement (some { e with stage := .memoryLast, value := v1 })).engineUnit off e.width .read

/-- An ENGINE unit has been served: `v1` is the value read (the old value of a Modify), `v2` the value written
(R17, R80, R81, R95). -/
def State.engineUnitServed (s : State) (v1 v2 : Word) : State :=
  match s.engine.element with
  | none => s
  | some e =>
    match e.stage with
    | .memoryFirst _ =>
      let e := { e with op := .write v1, stage := .card }
      (s.setElement (some e)).startCardPart e
    | .card => s.cardPartDone e v1 v2
    | .memoryLast =>
      match e.after with
      | .fetch _ => s.elementBoundary e e.value v1
      | .store _ | .nothing => s.elementBoundary e e.value 0

/-! ## The engine's choice (R59) -/

/-- The next element of a work item starts, or is refused at its start (R60, R62). -/
def State.beginElement (s : State) (item : WorkItem) (owner : CycleOwner) (op : Op) (p : Progress) : State :=
  match planElement s.windows item owner op p with
  | some (.start e) => s.startElement e
  | some (.refuse r) => s.itemFailed item r none
  | none => s.setEngineState .idle

/-- The next element of the action in hand. -/
def State.beginAction (s : State) (n : Fin 8) : State :=
  let l := s.line n
  match l.action with
  | some op => s.beginElement (.line n) (.line n) op l.progress
  | none => s.setEngineState .idle

/-- A line is taken: ACTING, the engine in ACTION (R59, R109). -/
def State.takePending (s : State) (n : Fin 8) : State :=
  match (s.line n).action with
  | some op => (s.takeLine n op.start).setEngineState (.action n)
  | none => s

/-- The ACTIVE entry has an element to begin and nothing holds it (R59, step 3). -/
def Entry.runnable (e : Entry) : Bool := e.timer.isNone && !e.cancel && e.op.cardSide.isSome

/-- The oldest QUEUED entry becomes ACTIVE, with its wait timer if its kind is a wait (R59, R63, R64, R66). -/
def activateFirst : List Entry → List Entry
  | [] => []
  | e :: es =>
    if e.state = .queued then { e with state := .active, timer := e.op.wait } :: es else e :: activateFirst es

def Queue.oldestQueued (q : Queue) : Option Entry := q.entries.find? fun e => e.state == .queued

/-- The oldest QUEUED entry is activated; a SlotReset asserts SRESET at once (R59, R66). -/
def State.activate (s : State) (e : Entry) : State :=
  let s := s.setQueue { s.queue with entries := activateFirst s.queue.entries }
  match e.op with
  | .slotReset _ => s.sresetAssert
  | _ => s

/-- One choice of the engine with no element started: nothing when there is nothing further to choose (R59). -/
def State.engineChoice (s : State) : Option State :=
  match s.engine.element with
  | some _ => none
  | none =>
    match s.engine.state with
    | .action n => if (s.line n).interval.isSome then none else some (s.beginAction n)
    | .idle | .entry =>
      match s.firstPending with
      | some n => some (s.takePending n)
      | none =>
        match s.queue.active with
        | some e =>
          if e.runnable && !s.queue.paused then
            some ((s.setEngineState .entry).beginElement .entry (.queue e.tag) e.op e.progress)
          else none
        | none =>
          if s.queue.paused || s.queue.halted then none
          else
            match s.queue.oldestQueued with
            | some e => some (s.activate e)
            | none => none

/-- A choice that finds nothing to begin leaves the engine in ACTION between the reads of an action, and otherwise
takes it to IDLE (R59, steps 1 and 5). -/
def State.engineRest (s : State) : State :=
  match s.engine.element with
  | some _ => s
  | none =>
    match s.engine.state with
    | .action _ => s
    | .idle | .entry => s.setEngineState .idle

/-- The engine chooses until it has an element started or nothing to begin. The first argument bounds the refusals of
one step: each refused line leaves PENDING and each refused entry sets `halted`. -/
def State.engineChoose : Nat → State → State
  | 0, s => s
  | fuel + 1, s =>
    match s.engineChoice with
    | some s' => State.engineChoose fuel s'
    | none => s.engineRest

/-- Two choices for each of the eight lines, three for an entry, one to rest, and room. -/
def engineFuel : Nat := 24

/-! ## Sub-state (R52) -/

/-- The ACTIVE entry's element is running on the bus or being served. -/
def State.entryRunning (s : State) : Bool :=
  match s.engine.element with
  | some e =>
    e.item == .entry &&
      (s.groupOf .engine || (match s.port.turn with | some u => u.requester == .engine | none => false))
  | none => false

/-- The sub-state of an ACTIVE entry (R52). -/
def State.subState (s : State) (e : Entry) : SubState :=
  match e.op with
  | .await _ _ => .waitEvent
  | .delay _ => .waitTime
  | .slotReset _ => .waitTime
  | .read _ | .write _ _ | .modify _ _ _ | .transfer _ _ _ _ _ | .scan _ _ _ _ _ _ _ _ | .compare _ _ _ _ _ _ _ =>
    if e.timer.isSome then .waitTime else if s.entryRunning then .inCycle else .waitBus

/-- The ACTIVE entry has an element started (R54, R58). -/
def State.entryStarted (s : State) : Bool :=
  match s.engine.element with
  | some e => e.item == .entry
  | none => false

end Sys2Proof.Machine
end

