-- ==== Sys2Proof/Machine/Settle.lean ====
section
/-! DEFINITION. What comes about inside a step besides the command's own effect: the blocks settle (levels of SREQ, the
engine's choice, the watch unit's next read, the grant point of an IDLE arbiter, the memory port's choice), and the link
interface takes the next message. -/

namespace Sys2Proof.Machine

/-- The unit goes on: a SCANNING unit with no read in flight starts its next read, or completes the pass when none is
left; it starts no read while SRESET is asserted (R145, R147, R152). A completed pass may end an Await, so the engine
chooses after it (R65, R59). The first argument bounds the reads refused in one step (log 8). -/
def State.watchContinue : Nat → State → State
  | 0, s => s
  | fuel + 1, s =>
    if s.watch.state = .scanning ∧ s.watch.read = none ∧ s.inSlotReset = false then
      match s.watch.nextSlot with
      | none => State.watchContinue fuel (State.engineChoose engineFuel s.watchComplete)
      | some i =>
        match s.watch.slots[i.val] with
        | some e => State.watchContinue fuel (s.watchStartRead i e)
        | none => s
    else s

/-- Reads a watch pass may have refused in one step: the rest of a pass, its completion, a whole next pass (log 8). -/
def watchFuel : Nat := 10

/-- The blocks settle, in this order (log 16). Of two units that arise at a free port in one step the port takes BUS
before ENGINE before WATCH, and by the side served last (log 23). -/
def State.settleBlocks (s : State) : State :=
  (State.watchContinue watchFuel (State.engineChoose engineFuel s.channelLevels)).arbitrate.portChoose

/-! ## The report pipe (R166, R167) -/

/-- The status of a finished entry's reply (R53). -/
def FaultKind.status : FaultKind → Status
  | .windowBlocked => .windowBlocked
  | .writeProtected => .writeProtected
  | .readyTimeout => .readyTimeout
  | .channelCheck => .channelCheck
  | .range => .range
  | .dmaAddress => .dmaAddress
  | .timeout => .timeout

def Entry.status (e : Entry) : Status :=
  match e.state with
  | .done => .ok
  | .failed => (match e.fail with | some r => r.kind.status | none => .ok)
  | .cancelled => .cancelled
  | .flushed => .flushed
  | .queued => .ok
  | .active => .ok

/-- The reply of a finished entry (R53): its layout is that of its kind, whatever its status (R174). -/
def Entry.reply (e : Entry) : Reply := ⟨replyKind e.op.kind, e.status, e.tag, .entry e⟩

/-- The taking of a notice: its owner acts on the transmission when it is a CHANNEL notice (R157, R135). -/
def State.noticeSent (s : State) (n : Notice) : State :=
  match n.body with
  | .channel b => s.channelNoticeSent b
  | .line _ | .watch _ | .check _ | .refresh _ => s

def State.setReport (s : State) (r : ReportPipe) : State := s.setLink { s.link with report := r }

/-- The head notice is taken for the report pipe, when there is one (R157). -/
def State.takeNotice (s : State) : State :=
  match s.notices with
  | n :: ns => ((s.setNotices ns).noticeSent n).setReport (.sending (.notice n))
  | [] => s

/-- The oldest entry's reply is taken when that entry has finished, and the entry is removed; otherwise the head notice
(R167, R53). -/
def State.takeQueued (s : State) : State :=
  match s.queue.entries with
  | e :: es =>
    if e.isFinished then
      (s.setQueue { s.queue with entries := es }).setReport (.sending (.reply e.reply))
    else s.takeNotice
  | [] => s.takeNotice

/-- Whenever the pipe is FREE and the link CONFIGURED, one waiting message is taken: the immediate reply, else the
oldest ready queued reply, else the head notice (R167). -/
def State.takeMessage (s : State) : State :=
  match s.link.state, s.link.report with
  | .configured, .free =>
    match s.link.slot with
    | .ready r => s.setLink { s.link with slot := .empty, report := .sending (.reply r) }
    | .empty | .working _ _ _ => s.takeQueued
  | .configured, .sending _ => s
  | .detached, _ => s

end Sys2Proof.Machine
end

