-- ==== Sys2Proof/Machine/Requests.lean ====
section
/-! DEFINITION. What taking each host request does (R165 and the rule of each request). Every function here is the
effect of a request that the link interface has taken; `kind` bytes are those of R174. -/

namespace Sys2Proof.Machine

/-- A refusal: a reply of the header alone (R165). -/
def State.refuse (s : State) (kind : Byte) (tag : Word) (st : Status) : State := s.answer kind tag st .none

/-- A kind that carries no data refuses data bytes with BAD_FIELD (R163). -/
def State.noData (s : State) (kind : Byte) (tag : Word) (data : List Byte) (effect : State) : State :=
  if data = [] then effect else s.refuse kind tag .badField

/-! ## Link interface (R168, R169, R171) -/

def State.takeIdentify (s : State) (tag : Word) (data : List Byte) : State :=
  s.noData 0x01 tag data (s.answer 0x01 tag .ok .identify)

def Channel.report (c : Channel) : ChannelReport :=
  ⟨c.state, c.overrun, c.starved, c.protectHit, c.blocksDone, c.fault⟩

def Line.report (l : Line) : LineReport := ⟨l.state, l.again⟩

/-- The fields of StatusGet as they stand (R169). -/
def State.statusReport (s : State) : StatusReport where
  paused := s.queue.paused
  halted := s.queue.halted
  entries := s.queue.entries.length
  active := s.queue.active.map fun e => ⟨e.tag, s.subState e, e.progress⟩
  channels := Vector.ofFn fun i => (s.channel i).report
  lines := Vector.ofFn fun i => (s.line i).report
  watch := s.watch.state
  passCount := s.watch.passCount
  period := s.refresh.period
  late := s.refresh.late
  sfault := s.sfault

def State.takeStatusGet (s : State) (tag : Word) (data : List Byte) : State :=
  s.noData 0x02 tag data (s.answer 0x02 tag .ok (.status s.statusReport))

/-- A turn that has begun completes without an owner (R39). -/
def Port.orphanTurn (p : Port) : Option MemUnit := p.turn.map fun u => { u with requester := .orphan }

/-- Every block but the link interface takes its part-reset values: cycle and tenures cut off, base memory and the
begun turn kept, the remembered levels the cards' own, the refresh timer stopped until the reset ends (R171, R21, R36,
R39, R69, R120, R140, R153, R160). -/
def State.partResetBlocks (s : State) : State :=
  { s with
    windows := windowsInitial
    bus := Bus.initial
    arbiter := .idle
    refresh := Refresh.initial none
    sreset := match s.sreset with | .powerOn => .powerOn | .released | .slotReset => .released
    port := { Port.initial with turn := s.port.orphanTurn }
    queue := Queue.initial
    engine := Engine.initial
    channels := Vector.ofFn fun i => Channel.initial (s.channel i).sreq
    lines := Vector.ofFn fun i => Line.initial (s.line i).level
    watch := Watch.initial
    notices := [] }

/-- PartReset holds the slot WORKING while the part resets (R171). -/
def State.takePartReset (s : State) (tag : Word) (data : List Byte) : State :=
  s.noData 0x03 tag data
    (let s := s.partResetBlocks
     s.setLink { s.link with slot := .working .partReset 0x03 tag, resetting := true })

/-! ## Window table (R19, R20) -/

/-- An address lies in both ranges. -/
def Window.overlaps (a b : Window) : Bool :=
  decide (a.space = b.space) && decide (a.base ≤ b.limit) && decide (b.base ≤ a.limit)

/-- Some other valid entry of the same space overlaps (R19). -/
def overlapsOther (ws : Vector (Option Window) 16) (n : Fin 16) (w : Window) : Bool :=
  (List.finRange 16).any fun m =>
    m != n && (match ws[m.val] with | some w' => w.overlaps w' | none => false)

def State.takeWindowSet (s : State) (tag : Word) (f : WindowFields) (data : List Byte) : State :=
  s.noData 0x10 tag data
    (match checkWindow f with
    | none => s.refuse 0x10 tag .badField
    | some (n, w) =>
      if overlapsOther s.windows n w then s.refuse 0x10 tag .overlap
      else (s.setWindows (s.windows.set n.val (some w))).answer 0x10 tag .ok .none)

def State.takeWindowClear (s : State) (tag : Word) (entry : Byte) (data : List Byte) : State :=
  s.noData 0x11 tag data
    (match finOf 16 entry.toNat with
    | none => s.refuse 0x11 tag .badField
    | some n => (s.setWindows (s.windows.set n.val none)).answer 0x11 tag .ok .none)

def State.takeWindowList (s : State) (tag : Word) (data : List Byte) : State :=
  s.noData 0x12 tag data (s.answer 0x12 tag .ok (.windows s.windows))

/-! ## Base memory (R44-R46) -/

/-- The range of a link-side request lies inside base memory. -/
def rangeOk (offset length largest : Nat) : Bool :=
  decide (1 ≤ length ∧ length ≤ largest ∧ offset < Config.memorySize ∧ offset + length ≤ Config.memorySize)

def State.takeMemoryRead (s : State) (tag : Word) (offset : BitVec 24) (length : Word) (data : List Byte) : State :=
  s.noData 0x18 tag data
    (if rangeOk offset.toNat length.toNat 1024 then
      s.startLinkJob 0x18 tag ⟨.read [], offset.toNat, offset.toNat + length.toNat⟩
    else s.refuse 0x18 tag .badField)

def State.takeMemoryWrite (s : State) (tag : Word) (offset : BitVec 24) (data : List Byte) : State :=
  if rangeOk offset.toNat data.length 1024 then
    s.startLinkJob 0x19 tag ⟨.write data, offset.toNat, offset.toNat + data.length⟩
  else s.refuse 0x19 tag .badField

def State.takeMemoryFill (s : State) (tag : Word) (offset length : BitVec 24) (pattern : Byte) (data : List Byte) :
    State :=
  s.noData 0x1A tag data
    (if rangeOk offset.toNat length.toNat Config.memorySize then
      s.startLinkJob 0x1A tag ⟨.fill pattern, offset.toNat, offset.toNat + length.toNat⟩
    else s.refuse 0x1A tag .badField)

/-! ## Refresh (R34) -/

/-- The generator after a RefreshSet: a period of 4-255 restarts the timer and keeps the pending flag; 0 stops the timer
and clears the flag, which withdraws the claim. -/
def Refresh.set (r : Refresh) (period : Nat) (clearLate : Bool) : Refresh :=
  { r with
    period := period
    timer := if period = 0 then none else some period
    pending := if period = 0 then false else r.pending
    late := if clearLate then 0 else r.late }

def State.takeRefreshSet (s : State) (tag : Word) (period clearLate : Byte) (data : List Byte) : State :=
  s.noData 0x20 tag data
    (match boolOf clearLate with
    | none => s.refuse 0x20 tag .badField
    | some c =>
      if 1 ≤ period.toNat ∧ period.toNat ≤ 3 then s.refuse 0x20 tag .badField
      else
        (s.setRefresh (s.refresh.set period.toNat c)).answer 0x20 tag .ok
          (.refresh period.toNat s.refresh.late))

/-! ## Channels (R123, R124, R138) -/

/-- The record after a ChannelSet: new configuration, no blocks, clear status, OFF or IDLE (R123). -/
def Channel.reconfigured (c : Channel) (cfg : ChannelConfig) : Channel :=
  { c.cleared with config := cfg, state := if cfg.enable then .idle else .off, tenureTimer := none }

def State.takeChannelSet (s : State) (tag : Word) (f : ChannelFields) (data : List Byte) : State :=
  s.noData 0x28 tag data
    (match checkChannel f with
    | none => s.refuse 0x28 tag .badField
    | some (n, cfg) =>
      let c := s.channel n
      if c.state = .moving ∨ c.state = .master then s.refuse 0x28 tag .busy
      else
        let s := (s.setChannel n (c.reconfigured cfg)).channelLevel n
        (s.answer 0x28 tag .ok (.channelState (s.channel n).state)).settleBlocks)

def State.takeChannelStage (s : State) (tag : Word) (f : StageFields) (data : List Byte) : State :=
  s.noData 0x29 tag data
    (match checkStage f with
    | none => s.refuse 0x29 tag .badField
    | some (n, b) =>
      let c := s.channel n
      if c.state = .off ∨ c.state = .faulted ∨ c.config.mode = .cascade then s.refuse 0x29 tag .state
      else
        match c.current, c.staged with
        | none, _ =>
          ((s.setChannel n { c with
            current := some b, starved := false, state := if c.state = .idle then .ready else c.state }).answer
            0x29 tag .ok (.placed false)).settleBlocks
        | some _, none => (s.setChannel n { c with staged := some b }).answer 0x29 tag .ok (.placed true)
        | some _, some _ => s.refuse 0x29 tag .busy)

/-- ChannelQuiesce holds the slot WORKING until the stop is reached (R138, R165). -/
def State.takeChannelQuiesce (s : State) (tag : Word) (channel : Byte) (data : List Byte) : State :=
  s.noData 0x2A tag data
    (match finOf 4 channel.toNat with
    | none => s.refuse 0x2A tag .badField
    | some n => ((s.setSlot (.working (.quiesce n) 0x2A tag)).quiesceChannel n).settleBlocks)

/-! ## Lines (R115-R117) -/

/-- The record after a LineSet: configuration replaced, service status reset, the remembered level kept (R117). -/
def Line.reconfigured (l : Line) (c : LineConfig) : Line :=
  { Line.initial l.level with
    role := c.role, mode := c.mode, service := c.service, action := c.action
    state := if c.role = .disabled then .disabled else .idle }

def State.takeLineSet (s : State) (tag : Word) (f : LineFields) (data : List Byte) : State :=
  match checkLine f data with
  | none => s.refuse 0x30 tag .badField
  | some (n, cfg) =>
    let l := s.line n
    if l.state = .acting then s.refuse 0x30 tag .busy
    else
      (((s.setLine n (l.reconfigured cfg)).lineLevelRule n).answer 0x30 tag .ok .none).settleBlocks

/-- The release of an IN_SERVICE or FAULTED line (R115): to PENDING (or, without an action, a notice at once) when
`again` is set or a LEVEL line is still asserted, the latter being an event; otherwise to IDLE. -/
def State.lineRelease (s : State) (n : Fin 8) : State :=
  let l := s.line n
  let levelEvent := l.mode == .level && l.level && !s.inSlotReset
  if l.again || levelEvent then
    (s.setLine n { l with
      again := false, edges := if levelEvent then addEdges l.edges 1 else l.edges }).lineToPending n
  else s.setLine n { l with state := .idle }

def State.takeLineEnd (s : State) (tag : Word) (line : Byte) (data : List Byte) : State :=
  s.noData 0x31 tag data
    (match finOf 8 line.toNat with
    | none => s.refuse 0x31 tag .badField
    | some n =>
      if (s.line n).state = .inService ∨ (s.line n).state = .faulted then
        let s := s.lineRelease n
        (s.answer 0x31 tag .ok (.lineState (s.line n).state)).settleBlocks
      else s.refuse 0x31 tag .state)

/-! ## Watch unit (R143, R144, R150, R151) -/

def Watch.anyValid (w : Watch) : Bool := (List.finRange 8).any fun i => (w.slots[i.val]).isSome

/-- The unit after a WatchSet: settings and slots replaced, no snapshot, pass count 0, ARMED or STOPPED (R143). -/
def Watch.reconfigured (w : Watch) (c : WatchConfig) : Watch :=
  let w := { w with
    slots := c.slots, mode := c.mode, interval := c.interval, trigger := c.trigger, snapshot := none, passCount := 0 }
  { w with state := if w.mode = .single ∧ w.trigger ≠ none ∧ w.anyValid = true then .armed else .stopped }

/-- A named trigger line whose role is not TRIGGER (R143). -/
def State.triggerMissing (s : State) (t : Option (Fin 8)) : Bool :=
  match t with
  | some n => (s.line n).role != .trigger
  | none => false

def State.takeWatchSet (s : State) (tag : Word) (f : WatchFields) (data : List Byte) : State :=
  s.noData 0x38 tag data
    (match checkWatch f with
    | none => s.refuse 0x38 tag .badField
    | some c =>
      if s.watch.state ≠ .stopped then s.refuse 0x38 tag .busy
      else if s.triggerMissing c.trigger then s.refuse 0x38 tag .state
      else
        let s := s.setWatch (s.watch.reconfigured c)
        s.answer 0x38 tag .ok (.watchState s.watch.state))

def State.takeWatchStart (s : State) (tag : Word) (data : List Byte) : State :=
  s.noData 0x39 tag data
    (if s.watch.anyValid then
      (s.watchBegin.answer 0x39 tag .ok (.watchState .scanning)).settleBlocks
    else s.refuse 0x39 tag .state)

/-- WatchStop: at once, or when the granted or served read in flight ends; the slot is WORKING until then (R150). -/
def State.takeWatchStop (s : State) (tag : Word) (data : List Byte) : State :=
  s.noData 0x3A tag data
    (let s := s.setSlot (.working .watchStop 0x3A tag)
     if s.watch.state = .scanning then
       let s := s.discardPass
       if s.watch.read.isSome then s.setWatch { s.watch with stopping := true } else s.watchStopped.settleBlocks
     else s.watchStopped.settleBlocks)

def State.takeWatchRead (s : State) (tag : Word) (data : List Byte) : State :=
  s.noData 0x3B tag data
    (s.answer 0x3B tag .ok (.watchRead s.watch.state s.watch.passCount s.watch.snapshot))

/-! ## Queue control (R54, R56, R57, R58) -/

def State.takeQueuePause (s : State) (tag : Word) (data : List Byte) : State :=
  s.noData 0x40 tag data
    ((s.setQueue { s.queue with paused := true }).answer 0x40 tag .ok
      (.pause (s.queue.active.map fun e => (e.tag, s.entryStarted))))

def State.takeQueueResume (s : State) (tag : Word) (data : List Byte) : State :=
  s.noData 0x41 tag data
    (((s.setQueue { s.queue with paused := false, halted := false }).answer 0x41 tag .ok .none).settleBlocks)

def Entry.flush (e : Entry) : Entry := if e.state = .queued then { e with state := .flushed } else e

def Queue.queuedCount (q : Queue) : Nat := (q.entries.filter fun e => e.state == .queued).length

def State.takeQueueFlush (s : State) (tag : Word) (data : List Byte) : State :=
  s.noData 0x42 tag data
    (((s.setQueue { s.queue with entries := s.queue.entries.map Entry.flush, halted := false }).answer 0x42 tag .ok
      (.flushed s.queue.queuedCount)).settleBlocks)

/-- Change the entry that carries a tag. -/
def Queue.mapTag (q : Queue) (tag : Word) (f : Entry → Entry) : Queue :=
  { q with entries := q.entries.map fun e => if e.tag = tag then f e else e }

/-- Cancel of the ACTIVE entry: one whose mark is already set is unchanged; otherwise the mark is set (R57), and it ends
the entry at once in a wait or with no element started, a SlotReset releasing SRESET, and else acts at the boundary
(R58). -/
def State.cancelActive (s : State) (e : Entry) : State :=
  if e.cancel then s
  else
    let s := s.mapActive fun e => { e with cancel := true }
    if e.timer.isSome || !s.entryStarted then
      let s := s.endActive .cancelled
      match e.op with
      | .slotReset _ => s.sresetReleased
      | _ => s
    else s

def State.takeQueueCancel (s : State) (tag target : Word) (data : List Byte) : State :=
  s.noData 0x43 tag data
    (match s.queue.entries.find? fun e => e.tag == target with
    | none => s.refuse 0x43 tag .notFound
    | some e =>
      match e.state with
      | .queued =>
        ((s.setQueue (s.queue.mapTag target fun e => { e with state := .cancelled })).answer 0x43 tag .ok
          (.cancel false)).settleBlocks
      | .active => ((s.cancelActive e).answer 0x43 tag .ok (.cancel true)).settleBlocks
      | .done | .failed | .cancelled | .flushed => s.refuse 0x43 tag .tooLate)

/-! ## Queued requests (R50) -/

/-- A fresh entry: QUEUED, no mark, zero progress at the starting addresses (R49, R50). -/
def Entry.fresh (tag : Word) (op : Op) : Entry :=
  ⟨tag, op, .queued, false, op.start, Gathered.empty, none, none⟩

/-- The admission checks in their order, then the append at the tail (R50). -/
def State.admission (s : State) (kind : Byte) (tag : Word) (op : Option Op) : State :=
  match op with
  | none => s.refuse kind tag .badField
  | some op =>
    if s.queue.entries.any fun e => e.tag == tag then s.refuse kind tag .duplicateTag
    else if Config.queueCapacity ≤ s.queue.entries.length then s.refuse kind tag .queueFull
    else
      (s.setQueue { s.queue with entries := s.queue.entries ++ [Entry.fresh tag op] }).settleBlocks

/-- A kind whose request carries no data bytes (R88, R94, R163). -/
def onlyWithout (data : List Byte) (op : Option Op) : Option Op := if data = [] then op else none

def State.takeRead (s : State) (tag : Word) (c : CardFields) (data : List Byte) : State :=
  s.admission 0x50 tag (onlyWithout data (admitRead c))

def State.takeWrite (s : State) (tag : Word) (c : CardFields) (value : Word) (data : List Byte) : State :=
  s.admission 0x51 tag (onlyWithout data (admitWrite c value))

def State.takeModify (s : State) (tag : Word) (c : CardFields) (andMask orMask : Word) (data : List Byte) : State :=
  s.admission 0x52 tag (onlyWithout data (admitModify c andMask orMask))

def State.takeTransfer (s : State) (tag : Word) (f : TransferFields) (data : List Byte) : State :=
  s.admission 0x53 tag (admitTransfer f data)

def State.takeScan (s : State) (tag : Word) (f : ScanFields) (data : List Byte) : State :=
  s.admission 0x54 tag (onlyWithout data (admitScan f))

def State.takeCompare (s : State) (tag : Word) (f : CompareFields) (data : List Byte) : State :=
  s.admission 0x55 tag (onlyWithout data (admitCompare f))

def State.takeDelay (s : State) (tag : Word) (duration : BitVec 32) (data : List Byte) : State :=
  s.admission 0x56 tag (onlyWithout data (admitDelay duration))

def State.takeAwait (s : State) (tag : Word) (source : Byte) (timeout : Word) (data : List Byte) : State :=
  s.admission 0x57 tag (onlyWithout data (admitAwait source timeout))

def State.takeSlotReset (s : State) (tag : Word) (duration : Word) (data : List Byte) : State :=
  s.admission 0x58 tag (onlyWithout data (admitSlotReset duration))

/-! ## The taking of a request (R163, R165) -/

/-- The request is handed to the block that owns it. -/
def State.serve (s : State) (r : HostRequest) : State :=
  match r.body with
  | .identify => s.takeIdentify r.tag r.data
  | .statusGet => s.takeStatusGet r.tag r.data
  | .partReset => s.takePartReset r.tag r.data
  | .windowSet f => s.takeWindowSet r.tag f r.data
  | .windowClear e => s.takeWindowClear r.tag e r.data
  | .windowList => s.takeWindowList r.tag r.data
  | .memoryRead o n => s.takeMemoryRead r.tag o n r.data
  | .memoryWrite o => s.takeMemoryWrite r.tag o r.data
  | .memoryFill o n p => s.takeMemoryFill r.tag o n p r.data
  | .refreshSet p c => s.takeRefreshSet r.tag p c r.data
  | .channelSet f => s.takeChannelSet r.tag f r.data
  | .channelStage f => s.takeChannelStage r.tag f r.data
  | .channelQuiesce c => s.takeChannelQuiesce r.tag c r.data
  | .lineSet f => s.takeLineSet r.tag f r.data
  | .lineEnd n => s.takeLineEnd r.tag n r.data
  | .watchSet f => s.takeWatchSet r.tag f r.data
  | .watchStart => s.takeWatchStart r.tag r.data
  | .watchStop => s.takeWatchStop r.tag r.data
  | .watchRead => s.takeWatchRead r.tag r.data
  | .queuePause => s.takeQueuePause r.tag r.data
  | .queueResume => s.takeQueueResume r.tag r.data
  | .queueFlush => s.takeQueueFlush r.tag r.data
  | .queueCancel t => s.takeQueueCancel r.tag t r.data
  | .read c => s.takeRead r.tag c r.data
  | .write c v => s.takeWrite r.tag c v r.data
  | .modify c a o => s.takeModify r.tag c a o r.data
  | .transfer f => s.takeTransfer r.tag f r.data
  | .scan f => s.takeScan r.tag f r.data
  | .compare f => s.takeCompare r.tag f r.data
  | .delay d => s.takeDelay r.tag d r.data
  | .await g t => s.takeAwait r.tag g t r.data
  | .slotReset d => s.takeSlotReset r.tag d r.data

/-- A transfer is taken from the request pipe: one that failed framing is refused with a header-only reply; a request
longer than the link carries is refused at framing too; any other request is served (R163). -/
def State.takeFramed (s : State) (f : Framed) : State :=
  match f with
  | .refused r => s.setSlot (.ready ⟨r.kind, r.status, r.tag, .none⟩)
  | .request r => if Config.maxMessage < r.length then s.refuse r.body.kind r.tag .badLength else s.serve r

/-- The transfers that wait in the request pipe are taken one after another while the slot is EMPTY; each taking may
give the report pipe a message, which may empty the slot again (R163, R167). -/
def State.drain : List Framed → State → State
  | [], s => s.setLink { s.link with pipe := [] }
  | f :: fs, s =>
    match s.link.slot with
    | .empty => State.drain fs (s.takeFramed f).takeMessage
    | .working _ _ _ | .ready _ => s.setLink { s.link with pipe := f :: fs }

/-- The link interface settles: a message is taken if the pipe is FREE, then waiting transfers are taken. -/
def State.settleLink (s : State) : State :=
  match s.link.state with
  | .detached => s
  | .configured => s.takeMessage.drain s.link.pipe

/-- The blocks settle, then the link interface. -/
def State.settle (s : State) : State := s.settleBlocks.settleLink

/-- A transfer arrives on the request pipe: discarded while the link is DETACHED, otherwise taken behind the transfers
that already wait (R162, R163). -/
def State.arrive (s : State) (f : Framed) : State :=
  match s.link.state with
  | .detached => s
  | .configured => s.drain (s.link.pipe ++ [f])

end Sys2Proof.Machine
end

