-- ==== Sys2Proof/Machine/Events.lean ====
section
/-! DEFINITION. What each event does before the blocks settle: the ends of cycles and memory turns, a bus master's
cycle, the card lines, the timers, the link and the resets. An event that cannot occur where the machine stands changes
nothing (log 3). -/

namespace Sys2Proof.Machine

/-! ## Cycle ends (R5, R6, R10-R13, R26) -/

/-- The end of an engine tenure. Whether the engine's next claim arrives at this grant point or after it is open (R26);
the two differ only when WATCH waits, and then a free order decides (log 6): when the claim comes after, the grant
point is taken now. -/
def State.engineGrantPoint (s : State) : State :=
  let s := s.setArbiter .idle
  if s.watchClaims then
    let (first, s) := s.takeFree
    if first then s else s.arbitrate
  else s

/-- The locked group has ended OK with the values of its element (R26). -/
def State.groupFinished (s : State) (g : Group) (v1 v2 : Word) : State :=
  let s := s.setGroup none
  match g.user with
  | .engine =>
    match s.engine.element with
    | some e => (s.cardPartDone e v1 v2).engineGrantPoint
    | none => s.setArbiter .idle
  | .watch => (s.watchReadEnd (.value v1)).setArbiter .idle

/-- The locked group has ended with a fault: the element fails with its own address and the `partial` flag (R13). -/
def State.groupFailed (s : State) (g : Group) (k : FaultKind) : State :=
  let s := s.setGroup none
  match g.user with
  | .engine =>
    match s.engine.element with
    | some e =>
      (s.itemFailed e.item ⟨k, some (g.space, (g.address : Int)), g.written⟩ g.failValues).engineGrantPoint
    | none => s.setArbiter .idle
  | .watch => (s.watchReadEnd (.fault k)).setArbiter .idle

/-- A cycle of a locked group has ended (R6, R13). -/
def State.groupCycleEnd (s : State) (o : CycleOutcome) (swide : Bool) (lines : Word) : State :=
  match s.bus.group with
  | none => s
  | some g =>
    match o with
    | .ok =>
      match g.next swide lines with
      | .more g' => s.startGroupCycle g'
      | .finished v1 v2 => s.groupFinished g v1 v2
    | .readyTimeout => s.groupFailed g .readyTimeout
    | .channelCheck => s.groupFailed g .channelCheck

/-- The end of a DMA element's cycle (R129): on OK the store unit is requested, the block advances, terminal count is
settled and the boundary taken; on a fault the channel faults and its tenure ends (R132). The completion of a block may
end an Await: the engine chooses before the boundary's checks, so that a SlotReset which follows the Await ends the
tenure at this boundary (R131, R129, R65, R28). -/
def State.dmaElementEnd (s : State) (n : Fin 4) (o : CycleOutcome) (lines : Word) : State :=
  let c := s.channel n
  match c.current with
  | none => s.endTenure n false
  | some b =>
    match o with
    | .ok =>
      let s :=
        if c.config.direction = .cardToMemory then
          s.setPort { s.port with
            bus := s.port.bus ++
              [⟨.dmaStore n, b.offset.toNat, c.config.width, .write (c.config.width.trim lines)⟩] }
        else s
      let b' := b.advance c.config.width
      let s := s.setChannel n { c with current := some b' }
      if b'.done = b'.count then
        let ended := c.staged.isNone
        (State.engineChoose engineFuel (s.terminalCount n b')).dmaBoundary n ended
      else s.dmaBoundary n false
    | .readyTimeout => (s.channelFault n .readyTimeout).endTenure n false
    | .channelCheck => (s.channelFault n .channelCheck).endTenure n false

/-- The cycle in progress has ended with an outcome (R6). -/
def State.cycleOver (s : State) (c : Cycle) (o : CycleOutcome) (swide : Bool) (lines : Word) : State :=
  let s := s.setCycle none
  match c.kind with
  | .refresh => s.refreshCycleEnd
  | .dma n => s.dmaElementEnd n o lines
  | .memory | .io => s.groupCycleEnd o swide lines

/-- CYCLE_END: the clocks of the samples run; a cycle that ends at one of them by its length or by SWAIT release takes
its outcome from SFAULT (R4, R6); one that does not end has advanced through them; a MEMORY_TO_CARD element that waits
in ADDRESS has no strobe clock yet (R42). -/
def State.cycleEnd (s : State) (swait : List Bool) (swide : Bool) (lines : Word) : State :=
  match s.bus.cycle with
  | none => s
  | some c =>
    if c.needsUnit then s
    else
      match Cycle.run swait c with
      | .running c' => s.setCycle (some c')
      | .ended => s.cycleOver c (cycleOutcome s.sfault) swide lines
      | .timedOut => s

/-- READY_TIMEOUT_EXPIRY: the clocks of the samples run; a held cycle whose strobe time exceeds its timeout at the last
of them ends READY_TIMEOUT, its read data all-ones and withheld (R5, R13). -/
def State.readyTimeout (s : State) (swait : List Bool) : State :=
  match s.bus.cycle with
  | none => s
  | some c =>
    if c.needsUnit then s
    else
      match Cycle.run swait c with
      | .running c' => s.setCycle (some c')
      | .ended => s
      | .timedOut => s.cycleOver c .readyTimeout false 0xFFFF

/-! ## SFAULT (R8, R9) -/

/-- A rising edge posts a CHECK notice with the record as it stands; a level that is already asserted is no edge. During
a part reset only the level follows (log 9). -/
def State.sfaultRise (s : State) : State :=
  if s.sfault then s
  else
    let s := s.setSfault true
    if s.link.resetting then s else s.post .check (.check s.bus.record)

def State.sfaultFall (s : State) : State := s.setSfault false

/-! ## The memory port (R41) -/

/-- What a served unit gives its requester. -/
def State.unitServed (s : State) (u : MemUnit) (old new : Word) : State :=
  match u.requester with
  | .dmaRead n => s.dmaReadServed n old
  | .dmaStore _ => s
  | .masterRead => s.masterReadServed old
  | .masterStore => s.masterStoreServed
  | .engine => s.engineUnitServed old new
  | .watch => s.watchReadEnd (.value old)
  | .link => s.linkUnitServed old
  | .orphan => s

/-- Whether an ENGINE unit that follows this turn is there when the port chooses is open when a WATCH unit waits (R41):
a free order (log 6). -/
def State.portTie (s : State) : State :=
  if s.port.watch.isSome then
    let (first, s) := s.takeFree
    if first then s else s.portChoose
  else s

/-- MEMORY_TURN_END: the unit of the turn takes effect and its requester goes on (R40, R41). -/
def State.memoryTurnEnd (s : State) : State :=
  match s.port.turn with
  | none => s
  | some u =>
    let (m, old, new) := u.serve s.mem
    let s := (s.setMem m).setPort { s.port with turn := none }
    let s := if u.requester = .engine then s.portTie else s
    s.unitServed u old new

/-! ## A bus master's cycle (R18, R30, R42, R137) -/

/-- The channel whose cascade tenure is in progress: the arbiter has granted it and it is in MASTER. -/
def State.masterChannel (s : State) : Option (Fin 4) :=
  match s.arbiter with
  | .granted (.channel n) => if (s.channel n).state = .master then some n else none
  | .idle | .granted .refresh | .granted .engine | .granted .watch | .insertedRefresh _ | .handback _ => none

/-- A 16-bit cycle of a WIDE or SENSE window, not at 0x0FFFFF (R18, R42). -/
def masterWide (at' : Attrs) (a : Nat) (shigh : Bool) : Bool :=
  shigh && at'.width != .narrow && a + 1 < Config.memorySize

/-- The address phase of a master's cycle: the table as it stands decides the answer (R18, R42, R137). A cycle that
begins after SGNTn is withdrawn is not answered (R30). -/
def State.masterAddressPhase (s : State) (sp : Space) (a : Nat) (shigh isWrite : Bool) : State :=
  match s.masterChannel with
  | none => s
  | some n =>
    if (match s.bus.master with | some m => m.strobe | none => false) then s
    else
      let s := s.dropMaster
      let at' := lookup s.windows sp a
      if sp = .memory ∧ at'.owner = .baseMemory then
        let wide := masterWide at' a shigh
        let w : Width := if wide then .two else .one
        if isWrite then
          if at'.writeProtect then
            (s.setMaster (some ⟨sp, a, true, wide, .writeProtected, false⟩)).setChannel n
              { s.channel n with protectHit := true }
          else s.setMaster (some ⟨sp, a, true, wide, .writeIdle a, false⟩)
        else
          (s.setMaster (some ⟨sp, a, false, wide, .readWait, false⟩)).setPort
            { s.port with bus := s.port.bus ++ [⟨.masterRead, a, w, .read⟩] }
      else s.setMaster (some ⟨sp, a, isWrite, false, .none, false⟩)

/-- The master asserts its strobe: a write's data is sampled and its store unit requested (R42). -/
def State.masterStrobeAssert (s : State) (lines : Word) : State :=
  match s.bus.master with
  | none => s
  | some m =>
    if m.strobe then s
    else
      match m.answer with
      | .writeIdle a =>
        let w : Width := if m.wide then .two else .one
        (s.setMaster (some { m with strobe := true, answer := .writeWait })).setPort
          { s.port with bus := s.port.bus ++ [⟨.masterStore, a, w, .write (w.trim lines)⟩] }
      | .none | .readWait | .readServed _ | .writeWait | .writeStored | .writeProtected =>
        s.setMaster (some { m with strobe := true })

/-- The master releases its strobe: its cycle is over; in HANDBACK this is the grant point (R30). -/
def State.masterStrobeRelease (s : State) : State :=
  match s.bus.master with
  | none => s
  | some m => if m.strobe then s.dropMaster.handbackEnd else s

/-- A master's store that base memory has not stored is taken away (R30). -/
def Port.dropMasterStore (p : Port) : Port :=
  { p with
    bus := p.bus.filter fun u => u.requester != .masterStore
    turn := p.turn.map fun u => if u.requester = .masterStore then { u with requester := .orphan, op := .read } else u }

/-- 16 µs after the withdrawal with the strobe still asserted: the B16 stops answering, a write not yet stored is not
stored, and the grant point is taken (R30). -/
def State.handbackTimeout (s : State) : State :=
  match s.arbiter with
  | .handback _ => (s.setPort s.port.dropMasterStore).dropMaster.handbackEnd
  | .idle | .granted _ | .insertedRefresh _ => s

/-! ## SREQ (R125, R136, R30, R31) -/

def State.sreqAssert (s : State) (n : Fin 4) : State := s.setChannel n { s.channel n with sreq := true }

def State.sreqDeassert (s : State) (n : Fin 4) : State :=
  let s := s.setChannel n { s.channel n with sreq := false }
  match (s.channel n).state with
  | .waiting | .heldOff => s.setChannel n { s.channel n with state := .idle }
  | .master => let s := s.withdrawGrant n; s.setChannel n { s.channel n with state := .idle }
  | .off | .idle | .ready | .moving | .faulted => s

/-- The tenure limit expires in MASTER: SGNTn withdrawn, HELD_OFF, OVERSTAY posted (R31). -/
def State.tenureExpiry (s : State) (n : Fin 4) : State :=
  let c := s.channel n
  if c.state = .master ∧ c.tenureTimer ≠ none then
    let s := s.withdrawGrant n
    (s.setChannel n { s.channel n with state := .heldOff }).postChannel n .overstay
  else s

/-! ## SINT (R104, R105, R118) -/

/-- A rising edge of SINTn by the line's role; none while SRESET is asserted or a part reset runs (log 9). A level
already asserted is no edge. -/
def State.sintRise (s : State) (n : Fin 8) : State :=
  let l := s.line n
  if l.level then s
  else
    let s := s.setLine n { l with level := true }
    if s.inSlotReset = true ∨ s.link.resetting = true then s
    else
      match l.role with
      | .disabled => s
      | .interrupt => s.lineEvent n
      | .trigger => s.triggerEdge n

def State.sintFall (s : State) (n : Fin 8) : State := s.setLine n { s.line n with level := false }

/-! ## Timers of the ACTIVE entry (R63, R64, R66, R92) -/

/-- The ACTIVE entry, when it is of the kind that `p` accepts. -/
def State.activeIs (s : State) (p : Op → Bool) : Bool :=
  match s.queue.active with
  | some e => p e.op && e.timer.isSome
  | none => false

def State.delayExpiry (s : State) : State :=
  if s.activeIs fun o => match o with | .delay _ => true | _ => false then s.endActive .done else s

/-- An Await's timer expires: FAILED with TIMEOUT, no address, and `halted` is set (R64). -/
def State.awaitTimeout (s : State) : State :=
  if s.activeIs fun o => match o with | .await _ _ => true | _ => false then
    s.failActive ⟨.timeout, none, false⟩ none
  else s

def State.slotResetExpiry (s : State) : State :=
  if s.activeIs fun o => match o with | .slotReset _ => true | _ => false then (s.endActive .done).sresetReleased
  else s

/-- A Scan's interval ends: the entry returns to WAIT_BUS (R92), or the action in hand goes on (R101). -/
def State.scanIntervalExpiry (s : State) (who : ScanOwner) : State :=
  match who with
  | .entry =>
    if s.activeIs fun o => match o with | .scan _ _ _ _ _ _ _ _ => true | _ => false then
      s.mapActive fun e => { e with timer := none }
    else s
  | .action =>
    match s.engine.state with
    | .action n => s.setLine n { s.line n with interval := none }
    | .idle | .entry => s

/-- The rest timer expires: SCANNING from the first valid entry (R147). -/
def State.watchRestExpiry (s : State) : State :=
  if s.watch.state = .resting ∧ s.watch.rest ≠ none then s.watchBegin else s

/-! ## The link (R163, R166, R172, R173) -/

/-- The host has read the last packet: the pipe goes FREE and the next message is chosen (R166, R167). -/
def State.reportComplete (s : State) : State := (s.setReport .free).settleLink

/-- The request queue at a link reset: every entry removed, flags cleared, an element in flight carried on without its
entry, a SlotReset's SRESET released (R68, R66). The queue is empty then, so nothing asserts SRESET again: the claims of
the release are granted as the step settles, after the channels and the watch unit have been reached (log 13). -/
def State.queueLinkReset (s : State) : State :=
  let held := s.sreset == .slotReset
  let s := s.setQueue Queue.initial
  let s := s.setElement (s.engine.element.map fun e => if e.item = .entry then { e with item := .orphan } else e)
  if held then s.sresetRelease else s

/-- A line at a link reset: IN_SERVICE and FAULTED are released to IDLE with `again` cleared, and the level rule acts
(R119). -/
def State.lineLinkReset (s : State) (n : Fin 8) : State :=
  let l := s.line n
  match l.state with
  | .inService | .faulted => (s.setLine n { l with state := .idle, again := false }).lineLevelRule n
  | .disabled | .idle | .pending | .acting => s

/-- The watch unit at a link reset: STOPPED, the pass discarded, the rest timer stopped (R153). -/
def State.watchLinkReset (s : State) : State :=
  let s := s.discardPass
  s.setWatch { s.watch with state := .stopped, stopping := false, rest := none }

/-- The link-side request stops at its unit boundary (R47). -/
def Port.dropLink (p : Port) : Port :=
  { p with
    link := none
    turn := p.turn.map fun u => if u.requester = .link then { u with requester := .orphan } else u }

/-- The link interface at a link reset: DETACHED, the pipe and the slot emptied, the message lost (R172). -/
def Link.detach (l : Link) : Link := { l with state := .detached, slot := .empty, report := .free, pipe := [] }

/-- LINK_RESET, when the link is CONFIGURED (R172). The order of the parts is log 13; the lines come before the request
queue, so that only a line that was IN_SERVICE or FAULTED when the reset was taken is released (R119), and not one that
takes its event as the reset releases SRESET (R118). -/
def State.linkReset (s : State) : State :=
  match s.link.state with
  | .detached => s
  | .configured =>
    let s := s.setLink s.link.detach
    let s := s.setPort s.port.dropLink
    let s := s.setNotices []
    let s := (List.finRange 8).foldl State.lineLinkReset s
    let s := s.queueLinkReset
    let s := (List.finRange 4).foldl State.quiesceChannel s
    s.watchLinkReset.settleBlocks

/-- LINK_CONFIGURED: from DETACHED once the start-up fill has completed (R173). -/
def State.linkConfigured (s : State) : State :=
  match s.link.state with
  | .configured => s
  | .detached =>
    if s.link.filled then
      (s.setLink { s.link with state := .configured, slot := .empty, report := .free }).settleLink
    else s

/-! ## Power-on and the end of a part reset (R39, R173, R171) -/

def State.powerOnSresetEnd (s : State) : State :=
  match s.sreset with
  | .powerOn => s.sresetReleased
  | .released => s
  | .slotReset => s

/-- The start-up fill has written 0 to every byte: the B16 presents itself (R39). -/
def State.startUpFillDone (s : State) : State :=
  if s.link.filled then s else (s.setMem []).setLink { s.link with filled := true }

/-- The part reset ends once a begun turn has completed: the refresh timer restarts at 15 µs, the reply is formed
(R171, R36). -/
def State.partResetEnd (s : State) : State :=
  if s.link.resetting = true ∧ s.port.turn = none then
    let s := s.setLink { s.link with resetting := false }
    let s := s.setRefresh { s.refresh with timer := some Config.defaultRefreshPeriod }
    s.finishWork .partReset .none
  else s

end Sys2Proof.Machine
end

