-- ==== Sys2Proof/Machine/EventCommands.lean ====
section
/-! DEFINITION. The commands that are events: the event's own effect (Events.lean), then the blocks and the link interface
settle (Settle.lean, Requests.lean) where the event can give them something to do. -/

namespace Sys2Proof.Machine

/-- PART_RESET_END (R171). -/
def execPartResetEnd (s : State) : Host.Outcome State Fault Refusal :=
  .next (s.partResetEnd.settle)

/-- REQUEST_REFUSED_AT_FRAMING (R163). -/
def execRequestRefusedAtFraming (transfer : List Byte) (s : State) : Host.Outcome State Fault Refusal :=
  .next (s.arrive (frame transfer))

/-- REPORT_TRANSFER_COMPLETE (R166). -/
def execReportTransferComplete (s : State) : Host.Outcome State Fault Refusal :=
  .next (s.reportComplete)

/-- LINK_RESET (R172). -/
def execLinkReset (s : State) : Host.Outcome State Fault Refusal :=
  .next (s.linkReset)

/-- LINK_CONFIGURED (R173). -/
def execLinkConfigured (s : State) : Host.Outcome State Fault Refusal :=
  .next (s.linkConfigured)

/-- POWER_ON (R173). -/
def execPowerOn (sfault : Bool) (sint : BitVec 8) (sreq : BitVec 4) (s : State) : Host.Outcome State Fault Refusal :=
  .next (State.powerOn s.pending s.free s.mem sfault sint sreq)

/-- POWER_ON_SRESET_END (R35). -/
def execPowerOnSresetEnd (s : State) : Host.Outcome State Fault Refusal :=
  .next (s.powerOnSresetEnd.settle)

/-- START_UP_FILL_DONE (R39). -/
def execStartUpFillDone (s : State) : Host.Outcome State Fault Refusal :=
  .next (s.startUpFillDone)

/-- CYCLE_END (R6). -/
def execCycleEnd (swait : List Bool) (swide : Bool) (lines : Word) (s : State) : Host.Outcome State Fault Refusal :=
  .next ((s.cycleEnd swait swide lines).settle)

/-- READY_TIMEOUT_EXPIRY (R5). -/
def execReadyTimeoutExpiry (swait : List Bool) (s : State) : Host.Outcome State Fault Refusal :=
  .next ((s.readyTimeout swait).settle)

/-- SFAULT_RISE (R9). -/
def execSfaultRise (s : State) : Host.Outcome State Fault Refusal :=
  .next (s.sfaultRise.settleLink)

/-- MEMORY_TURN_END (R41). -/
def execMemoryTurnEnd (s : State) : Host.Outcome State Fault Refusal :=
  .next (s.memoryTurnEnd.settle)

/-- MASTER_CYCLE_ADDRESS_PHASE (R18). -/
def execMasterCycleAddressPhase (space : Space) (address : BitVec 24) (shigh : Bool) (isWrite : Bool) (s : State) : Host.Outcome State Fault Refusal :=
  .next ((s.masterAddressPhase space address.toNat shigh isWrite).settle)

/-- MASTER_STROBE_RELEASE (R30). -/
def execMasterStrobeRelease (s : State) : Host.Outcome State Fault Refusal :=
  .next (s.masterStrobeRelease.settle)

/-- HANDBACK_TIMEOUT (R30). -/
def execHandbackTimeout (s : State) : Host.Outcome State Fault Refusal :=
  .next (s.handbackTimeout.settle)

/-- REFRESH_TIMER_EXPIRY (R32). -/
def execRefreshTimerExpiry (s : State) : Host.Outcome State Fault Refusal :=
  .next (s.refreshExpiry.settle)

/-- DELAY_EXPIRY (R63). -/
def execDelayExpiry (s : State) : Host.Outcome State Fault Refusal :=
  .next (s.delayExpiry.settle)

/-- AWAIT_TIMEOUT (R64). -/
def execAwaitTimeout (s : State) : Host.Outcome State Fault Refusal :=
  .next (s.awaitTimeout.settle)

/-- SCAN_INTERVAL_EXPIRY (R92). -/
def execScanIntervalExpiry (who : ScanOwner) (s : State) : Host.Outcome State Fault Refusal :=
  .next ((s.scanIntervalExpiry who).settle)

/-- SLOT_RESET_EXPIRY (R66). -/
def execSlotResetExpiry (s : State) : Host.Outcome State Fault Refusal :=
  .next (s.slotResetExpiry.settle)

/-- SREQ_ASSERT (R125). -/
def execSreqAssert (n : Fin 4) (s : State) : Host.Outcome State Fault Refusal :=
  .next ((s.sreqAssert n).settle)

/-- SREQ_DEASSERT (R125). -/
def execSreqDeassert (n : Fin 4) (s : State) : Host.Outcome State Fault Refusal :=
  .next ((s.sreqDeassert n).settle)

/-- CASCADE_TENURE_EXPIRY (R31). -/
def execCascadeTenureExpiry (n : Fin 4) (s : State) : Host.Outcome State Fault Refusal :=
  .next ((s.tenureExpiry n).settle)

/-- SINT_RISE (R104). -/
def execSintRise (n : Fin 8) (s : State) : Host.Outcome State Fault Refusal :=
  .next ((s.sintRise n).settle)

/-- WATCH_REST_EXPIRY (R147). -/
def execWatchRestExpiry (s : State) : Host.Outcome State Fault Refusal :=
  .next (s.watchRestExpiry.settle)

/-- SFAULT_FALL (R8). -/
def execSfaultFall (s : State) : Host.Outcome State Fault Refusal :=
  .next (s.sfaultFall)

/-- SINT_FALL (R104). -/
def execSintFall (n : Fin 8) (s : State) : Host.Outcome State Fault Refusal :=
  .next (s.sintFall n)

/-- MASTER_STROBE_ASSERT (R42). -/
def execMasterStrobeAssert (lines : Word) (s : State) : Host.Outcome State Fault Refusal :=
  .next ((s.masterStrobeAssert lines).settle)

end Sys2Proof.Machine
end

