-- ==== Sys2Proof/Machine/HostCommands.lean ====
section
/-! DEFINITION. The commands that are host requests: each arrives as a transfer on the request pipe; what its taking does
is in Requests.lean. -/

namespace Sys2Proof.Machine

/-- IDENTIFY (R168). -/
def execIdentify (tag : Word) (data : List Byte) (s : State) :
    Host.Outcome State Fault Refusal :=
  .next (s.arrive (.request ⟨tag, .identify, data⟩))

/-- STATUS_GET (R169). -/
def execStatusGet (tag : Word) (data : List Byte) (s : State) :
    Host.Outcome State Fault Refusal :=
  .next (s.arrive (.request ⟨tag, .statusGet, data⟩))

/-- PART_RESET (R171). -/
def execPartReset (tag : Word) (data : List Byte) (s : State) :
    Host.Outcome State Fault Refusal :=
  .next (s.arrive (.request ⟨tag, .partReset, data⟩))

/-- WINDOW_SET (R19). -/
def execWindowSet (tag : Word) (f : WindowFields) (data : List Byte) (s : State) :
    Host.Outcome State Fault Refusal :=
  .next (s.arrive (.request ⟨tag, .windowSet f, data⟩))

/-- WINDOW_CLEAR (R20). -/
def execWindowClear (tag : Word) (entry : Byte) (data : List Byte) (s : State) :
    Host.Outcome State Fault Refusal :=
  .next (s.arrive (.request ⟨tag, .windowClear entry, data⟩))

/-- WINDOW_LIST (R20). -/
def execWindowList (tag : Word) (data : List Byte) (s : State) :
    Host.Outcome State Fault Refusal :=
  .next (s.arrive (.request ⟨tag, .windowList, data⟩))

/-- MEMORY_READ (R44). -/
def execMemoryRead (tag : Word) (offset : BitVec 24) (length : Word) (data : List Byte) (s : State) :
    Host.Outcome State Fault Refusal :=
  .next (s.arrive (.request ⟨tag, .memoryRead offset length, data⟩))

/-- MEMORY_WRITE (R45). -/
def execMemoryWrite (tag : Word) (offset : BitVec 24) (data : List Byte) (s : State) :
    Host.Outcome State Fault Refusal :=
  .next (s.arrive (.request ⟨tag, .memoryWrite offset, data⟩))

/-- MEMORY_FILL (R46). -/
def execMemoryFill (tag : Word) (offset length : BitVec 24) (pattern : Byte) (data : List Byte) (s : State) :
    Host.Outcome State Fault Refusal :=
  .next (s.arrive (.request ⟨tag, .memoryFill offset length pattern, data⟩))

/-- REFRESH_SET (R34). -/
def execRefreshSet (tag : Word) (period clearLate : Byte) (data : List Byte) (s : State) :
    Host.Outcome State Fault Refusal :=
  .next (s.arrive (.request ⟨tag, .refreshSet period clearLate, data⟩))

/-- CHANNEL_SET (R123). -/
def execChannelSet (tag : Word) (f : ChannelFields) (data : List Byte) (s : State) :
    Host.Outcome State Fault Refusal :=
  .next (s.arrive (.request ⟨tag, .channelSet f, data⟩))

/-- CHANNEL_STAGE (R124). -/
def execChannelStage (tag : Word) (f : StageFields) (data : List Byte) (s : State) :
    Host.Outcome State Fault Refusal :=
  .next (s.arrive (.request ⟨tag, .channelStage f, data⟩))

/-- CHANNEL_QUIESCE (R138). -/
def execChannelQuiesce (tag : Word) (channel : Byte) (data : List Byte) (s : State) :
    Host.Outcome State Fault Refusal :=
  .next (s.arrive (.request ⟨tag, .channelQuiesce channel, data⟩))

/-- LINE_SET (R117). -/
def execLineSet (tag : Word) (f : LineFields) (data : List Byte) (s : State) :
    Host.Outcome State Fault Refusal :=
  .next (s.arrive (.request ⟨tag, .lineSet f, data⟩))

/-- LINE_END (R115). -/
def execLineEnd (tag : Word) (line : Byte) (data : List Byte) (s : State) :
    Host.Outcome State Fault Refusal :=
  .next (s.arrive (.request ⟨tag, .lineEnd line, data⟩))

/-- WATCH_SET (R143). -/
def execWatchSet (tag : Word) (f : WatchFields) (data : List Byte) (s : State) :
    Host.Outcome State Fault Refusal :=
  .next (s.arrive (.request ⟨tag, .watchSet f, data⟩))

/-- WATCH_START (R144). -/
def execWatchStart (tag : Word) (data : List Byte) (s : State) :
    Host.Outcome State Fault Refusal :=
  .next (s.arrive (.request ⟨tag, .watchStart, data⟩))

/-- WATCH_STOP (R150). -/
def execWatchStop (tag : Word) (data : List Byte) (s : State) :
    Host.Outcome State Fault Refusal :=
  .next (s.arrive (.request ⟨tag, .watchStop, data⟩))

/-- WATCH_READ (R151). -/
def execWatchRead (tag : Word) (data : List Byte) (s : State) :
    Host.Outcome State Fault Refusal :=
  .next (s.arrive (.request ⟨tag, .watchRead, data⟩))

/-- QUEUE_PAUSE (R54). -/
def execQueuePause (tag : Word) (data : List Byte) (s : State) :
    Host.Outcome State Fault Refusal :=
  .next (s.arrive (.request ⟨tag, .queuePause, data⟩))

/-- QUEUE_RESUME (R54). -/
def execQueueResume (tag : Word) (data : List Byte) (s : State) :
    Host.Outcome State Fault Refusal :=
  .next (s.arrive (.request ⟨tag, .queueResume, data⟩))

/-- QUEUE_FLUSH (R56). -/
def execQueueFlush (tag : Word) (data : List Byte) (s : State) :
    Host.Outcome State Fault Refusal :=
  .next (s.arrive (.request ⟨tag, .queueFlush, data⟩))

/-- QUEUE_CANCEL (R57). -/
def execQueueCancel (tag : Word) (target : Word) (data : List Byte) (s : State) :
    Host.Outcome State Fault Refusal :=
  .next (s.arrive (.request ⟨tag, .queueCancel target, data⟩))

/-- READ (R70). -/
def execRead (tag : Word) (c : CardFields) (data : List Byte) (s : State) :
    Host.Outcome State Fault Refusal :=
  .next (s.arrive (.request ⟨tag, .read c, data⟩))

/-- WRITE (R70). -/
def execWrite (tag : Word) (c : CardFields) (value : Word) (data : List Byte) (s : State) :
    Host.Outcome State Fault Refusal :=
  .next (s.arrive (.request ⟨tag, .write c value, data⟩))

/-- MODIFY (R70). -/
def execModify (tag : Word) (c : CardFields) (andMask orMask : Word) (data : List Byte) (s : State) :
    Host.Outcome State Fault Refusal :=
  .next (s.arrive (.request ⟨tag, .modify c andMask orMask, data⟩))

/-- TRANSFER (R77). -/
def execTransfer (tag : Word) (f : TransferFields) (data : List Byte) (s : State) :
    Host.Outcome State Fault Refusal :=
  .next (s.arrive (.request ⟨tag, .transfer f, data⟩))

/-- SCAN (R88). -/
def execScan (tag : Word) (f : ScanFields) (data : List Byte) (s : State) :
    Host.Outcome State Fault Refusal :=
  .next (s.arrive (.request ⟨tag, .scan f, data⟩))

/-- COMPARE (R94). -/
def execCompare (tag : Word) (f : CompareFields) (data : List Byte) (s : State) :
    Host.Outcome State Fault Refusal :=
  .next (s.arrive (.request ⟨tag, .compare f, data⟩))

/-- DELAY (R63). -/
def execDelay (tag : Word) (duration : BitVec 32) (data : List Byte) (s : State) :
    Host.Outcome State Fault Refusal :=
  .next (s.arrive (.request ⟨tag, .delay duration, data⟩))

/-- AWAIT (R64). -/
def execAwait (tag : Word) (source : Byte) (timeout : Word) (data : List Byte) (s : State) :
    Host.Outcome State Fault Refusal :=
  .next (s.arrive (.request ⟨tag, .await source timeout, data⟩))

/-- SLOT_RESET (R66). -/
def execSlotReset (tag : Word) (duration : Word) (data : List Byte) (s : State) :
    Host.Outcome State Fault Refusal :=
  .next (s.arrive (.request ⟨tag, .slotReset duration, data⟩))

end Sys2Proof.Machine
end

