-- ==== Sys2Proof/Machine/Dispatch.lean ====
section
/-! DEFINITION. One arm for each command, one direct call of its meaning. -/

namespace Sys2Proof.Machine

def exec (i : Instr) (s : State) : Host.Outcome State Fault Refusal :=
  match i with
  | .identify tag data => Sys2Proof.Machine.execIdentify tag data s
  | .statusGet tag data => Sys2Proof.Machine.execStatusGet tag data s
  | .partReset tag data => Sys2Proof.Machine.execPartReset tag data s
  | .partResetEnd => Sys2Proof.Machine.execPartResetEnd s
  | .windowSet tag f data => Sys2Proof.Machine.execWindowSet tag f data s
  | .windowClear tag entry data => Sys2Proof.Machine.execWindowClear tag entry data s
  | .windowList tag data => Sys2Proof.Machine.execWindowList tag data s
  | .memoryRead tag offset length data => Sys2Proof.Machine.execMemoryRead tag offset length data s
  | .memoryWrite tag offset data => Sys2Proof.Machine.execMemoryWrite tag offset data s
  | .memoryFill tag offset length pattern data => Sys2Proof.Machine.execMemoryFill tag offset length pattern data s
  | .refreshSet tag period clearLate data => Sys2Proof.Machine.execRefreshSet tag period clearLate data s
  | .channelSet tag f data => Sys2Proof.Machine.execChannelSet tag f data s
  | .channelStage tag f data => Sys2Proof.Machine.execChannelStage tag f data s
  | .channelQuiesce tag channel data => Sys2Proof.Machine.execChannelQuiesce tag channel data s
  | .lineSet tag f data => Sys2Proof.Machine.execLineSet tag f data s
  | .lineEnd tag line data => Sys2Proof.Machine.execLineEnd tag line data s
  | .watchSet tag f data => Sys2Proof.Machine.execWatchSet tag f data s
  | .watchStart tag data => Sys2Proof.Machine.execWatchStart tag data s
  | .watchStop tag data => Sys2Proof.Machine.execWatchStop tag data s
  | .watchRead tag data => Sys2Proof.Machine.execWatchRead tag data s
  | .queuePause tag data => Sys2Proof.Machine.execQueuePause tag data s
  | .queueResume tag data => Sys2Proof.Machine.execQueueResume tag data s
  | .queueFlush tag data => Sys2Proof.Machine.execQueueFlush tag data s
  | .queueCancel tag target data => Sys2Proof.Machine.execQueueCancel tag target data s
  | .read tag c data => Sys2Proof.Machine.execRead tag c data s
  | .write tag c value data => Sys2Proof.Machine.execWrite tag c value data s
  | .modify tag c andMask orMask data => Sys2Proof.Machine.execModify tag c andMask orMask data s
  | .transfer tag f data => Sys2Proof.Machine.execTransfer tag f data s
  | .scan tag f data => Sys2Proof.Machine.execScan tag f data s
  | .compare tag f data => Sys2Proof.Machine.execCompare tag f data s
  | .delay tag duration data => Sys2Proof.Machine.execDelay tag duration data s
  | .await tag source timeout data => Sys2Proof.Machine.execAwait tag source timeout data s
  | .slotReset tag duration data => Sys2Proof.Machine.execSlotReset tag duration data s
  | .requestRefusedAtFraming transfer => Sys2Proof.Machine.execRequestRefusedAtFraming transfer s
  | .reportTransferComplete => Sys2Proof.Machine.execReportTransferComplete s
  | .linkReset => Sys2Proof.Machine.execLinkReset s
  | .linkConfigured => Sys2Proof.Machine.execLinkConfigured s
  | .powerOn sfault sint sreq => Sys2Proof.Machine.execPowerOn sfault sint sreq s
  | .powerOnSresetEnd => Sys2Proof.Machine.execPowerOnSresetEnd s
  | .startUpFillDone => Sys2Proof.Machine.execStartUpFillDone s
  | .cycleEnd swait swide lines => Sys2Proof.Machine.execCycleEnd swait swide lines s
  | .readyTimeoutExpiry swait => Sys2Proof.Machine.execReadyTimeoutExpiry swait s
  | .sfaultRise => Sys2Proof.Machine.execSfaultRise s
  | .memoryTurnEnd => Sys2Proof.Machine.execMemoryTurnEnd s
  | .masterCycleAddressPhase space address shigh isWrite => Sys2Proof.Machine.execMasterCycleAddressPhase space address shigh isWrite s
  | .masterStrobeRelease => Sys2Proof.Machine.execMasterStrobeRelease s
  | .handbackTimeout => Sys2Proof.Machine.execHandbackTimeout s
  | .refreshTimerExpiry => Sys2Proof.Machine.execRefreshTimerExpiry s
  | .delayExpiry => Sys2Proof.Machine.execDelayExpiry s
  | .awaitTimeout => Sys2Proof.Machine.execAwaitTimeout s
  | .scanIntervalExpiry who => Sys2Proof.Machine.execScanIntervalExpiry who s
  | .slotResetExpiry => Sys2Proof.Machine.execSlotResetExpiry s
  | .sreqAssert n => Sys2Proof.Machine.execSreqAssert n s
  | .sreqDeassert n => Sys2Proof.Machine.execSreqDeassert n s
  | .cascadeTenureExpiry n => Sys2Proof.Machine.execCascadeTenureExpiry n s
  | .sintRise n => Sys2Proof.Machine.execSintRise n s
  | .watchRestExpiry => Sys2Proof.Machine.execWatchRestExpiry s
  | .sfaultFall => Sys2Proof.Machine.execSfaultFall s
  | .sintFall n => Sys2Proof.Machine.execSintFall n s
  | .masterStrobeAssert lines => Sys2Proof.Machine.execMasterStrobeAssert lines s

end Sys2Proof.Machine
end

