-- ==== Sys2Proof/Machine/Step.lean ====
section
/-! DEFINITION. One step: the command at the front of the queue is taken and runs on the state with the queue's rest. On
an empty queue the block idles, except that a watch pass that stands between two reads goes on (log 8). -/

namespace Sys2Proof.Machine

/-- What the block does with no command waiting: it settles (log 8). A settled block stays as it is. -/
def State.idleStep (s : State) : State := s.settle

def step (s : State) : Host.Outcome State Fault Refusal :=
  match s.pending with
  | [] => .next s.idleStep
  | c :: rest => exec c (s.setPending rest)

/-- The command that a word spells, put at the front of the queue; no row of the table gives bits, so no word spells one
and the state is unchanged. -/
def State.withFetchWord (s : State) (nbits w : Nat) : State :=
  match decodeTableWord nbits w with
  | some c => s.setPending (c :: s.pending)
  | none => s

end Sys2Proof.Machine
end

