-- ==== Sys2Proof/Machine/SlotLines.lean ====
section
/-! DEFINITION. The lines the B16 drives on the slot bus, as the state gives them (R2, R3, R18, R25, R42, R128). -/

namespace Sys2Proof.Machine

/-- What the B16 drives; an absent address or data value is a released group of lines. -/
structure SlotLines where
  address : Option Nat
  sio : Bool
  srd : Bool
  swr : Bool
  data : Option (Lanes × Word)
  swait : Bool
  swide : Bool
  srefresh : Bool
  sreset : Bool
  sgnt : Vector Bool 4
  slast : Bool
  deriving DecidableEq, Repr

/-- The phase of the cycle in progress; IDLE with none (R3). -/
def State.cyclePhase (s : State) : CyclePhase :=
  match s.bus.cycle with
  | some c => c.phase
  | none => .idle

/-- The strobe of the cycle in progress is asserted. -/
def State.strobing (s : State) : Bool := s.cyclePhase == .strobe || s.cyclePhase == .held

/-- SGNTn: through the DMA cycles of channel n, and while it is in MASTER (R128, R30); deasserted in an inserted refresh
cycle (R29). -/
def State.sgnt (s : State) (n : Fin 4) : Bool :=
  (match s.bus.cycle with | some c => c.kind == .dma n | none => false) || (s.channel n).state == .master

/-- Data the B16 drives: on its own writes and on a MEMORY_TO_CARD strobe, and toward a master that reads (R2). -/
def State.drivenData (s : State) : Option (Lanes × Word) :=
  match s.bus.cycle with
  | some c => if c.isWrite && s.strobing then some (c.lanes, c.drive) else none
  | none =>
    match s.bus.master with
    | some m =>
      match m.answer with
      | .readServed v => some (if m.wide then .wide else .narrow, v)
      | .none | .readWait | .writeIdle _ | .writeWait | .writeStored | .writeProtected => none
    | none => none

/-- SWAIT toward a master: from its strobe until its unit is served (R18, R42). -/
def State.drivenSwait (s : State) : Bool :=
  match s.bus.master with
  | some m => m.strobe && (m.answer == .readWait || m.answer == .writeWait)
  | none => false

/-- SWIDE toward a master: a cycle answered as a 16-bit one (R18). -/
def State.drivenSwide (s : State) : Bool :=
  match s.bus.master with
  | some m => m.wide
  | none => false

def State.slotLines (s : State) : SlotLines where
  address := s.bus.cycle.map fun c => c.address
  sio := match s.bus.cycle with | some c => c.kind == .io | none => false
  srd := match s.bus.cycle with | some c => s.strobing && !c.isWrite && c.kind != .refresh | none => false
  swr := match s.bus.cycle with | some c => s.strobing && c.isWrite | none => false
  data := s.drivenData
  swait := s.drivenSwait
  swide := s.drivenSwide
  srefresh := match s.bus.cycle with | some c => s.strobing && c.kind == .refresh | none => false
  sreset := s.inSlotReset
  sgnt := Vector.ofFn fun i => s.sgnt i
  slast := match s.bus.cycle with | some c => s.strobing && c.slast | none => false

end Sys2Proof.Machine
end

