-- ==== Sys2Proof/Machine/Messages.lean ====
section
/-! DEFINITION. The byte layouts of replies and notices (R174): what the report pipe carries for each message. -/

namespace Sys2Proof.Machine

def byteOf (n : Nat) : Byte := BitVec.ofNat 8 n

def boolByte (b : Bool) : Byte := if b then 1 else 0

def nat2 (n : Nat) : List Byte := bytes2 (BitVec.ofNat 16 n)

def nat3 (n : Nat) : List Byte := bytes3 (BitVec.ofNat 24 n)

def nat4 (n : Nat) : List Byte := bytes4 (BitVec.ofNat 32 n)

/-- A memory pointer: four bytes in two's complement. -/
def pointer4 (i : Int) : List Byte := bytes4 (BitVec.ofInt 32 i)

/-- A failing address: three bytes; a pointer below 0 wraps (log 17). -/
def address3 (i : Int) : List Byte := bytes3 (BitVec.ofInt 24 i)

/-! ## Codes -/

def statusByte : Status → Byte
  | .ok => 0x00
  | .badKind => 0x01
  | .badLength => 0x02
  | .badField => 0x03
  | .queueFull => 0x04
  | .duplicateTag => 0x05
  | .busy => 0x06
  | .state => 0x07
  | .notFound => 0x08
  | .tooLate => 0x09
  | .overlap => 0x0A
  | .windowBlocked => 0x10
  | .writeProtected => 0x11
  | .readyTimeout => 0x12
  | .channelCheck => 0x13
  | .range => 0x14
  | .dmaAddress => 0x15
  | .timeout => 0x17
  | .cancelled => 0x18
  | .flushed => 0x19

/-- A fault-kind field: the status value, 0 for none. -/
def faultByte : Option FaultKind → Byte
  | some k => statusByte k.status
  | none => 0x00

def Source.byte : Source → Byte
  | .line n => byteOf n
  | .channel n => byteOf (8 + n.val)
  | .watch => 0x0C
  | .check => 0x0D
  | .refresh => 0x0E

def spaceByte : Space → Byte
  | .memory => 0
  | .io => 1

def WindowOwner.byte : WindowOwner → Byte
  | .baseMemory => 0
  | .card => 1
  | .blocked => 2

def WidthAttr.byte : WidthAttr → Byte
  | .narrow => 0
  | .wide => 1
  | .sense => 2

def ChannelState.byte : ChannelState → Byte
  | .off => 0
  | .idle => 1
  | .ready => 2
  | .moving => 3
  | .waiting => 4
  | .master => 5
  | .heldOff => 6
  | .faulted => 7

def Reason.byte : Reason → Byte
  | .blockDone => 0
  | .fault => 1
  | .overstay => 2

def LineState.byte : LineState → Byte
  | .disabled => 0
  | .idle => 1
  | .pending => 2
  | .acting => 3
  | .inService => 4
  | .faulted => 5

def WatchState.byte : WatchState → Byte
  | .stopped => 0
  | .armed => 1
  | .scanning => 2
  | .resting => 3

def SubState.byte : SubState → Byte
  | .waitBus => 0
  | .inCycle => 1
  | .waitTime => 2
  | .waitEvent => 3

/-- The CHECK owner and its number: the tag for QUEUE, the line or channel number, 0 otherwise. -/
def CycleOwner.bytes : CycleOwner → List Byte
  | .none => [0] ++ nat2 0
  | .queue tag => [1] ++ bytes2 tag
  | .line n => [2] ++ nat2 n
  | .channel n => [3] ++ nat2 n
  | .watch => [4] ++ nat2 0

/-! ## Parts of bodies -/

/-- An entry of WindowList: valid, then the fields from space to write-protect, zero when invalid. -/
def windowBytes : Option Window → List Byte
  | none => List.replicate 13 0
  | some w =>
    [1, spaceByte w.space] ++ nat3 w.base ++ nat3 w.limit ++
      [w.owner.byte, w.width.byte, byteOf w.waitCount, byteOf w.readyTimeout, boolByte w.writeProtect]

/-- The flags of a channel: bit 0 `overrun`, bit 1 `starved`, bit 2 `protect_hit`. -/
def channelFlags (overrun starved protectHit : Bool) : Byte :=
  boolByte overrun ||| (boolByte starved <<< 1) ||| (boolByte protectHit <<< 2)

def ChannelReport.bytes (r : ChannelReport) : List Byte :=
  [r.state.byte, channelFlags r.overrun r.starved r.protectHit] ++ nat2 r.blocksDone ++ [faultByte r.fault]

/-- The ACTIVE entry in StatusGet: present, tag, sub-state, progress. With no ACTIVE entry all are 0: of the fields behind the
presence byte that is the model's choice (log 26). -/
def activeBytes : Option ActiveReport → List Byte
  | none => List.replicate 15 0
  | some a =>
    [1] ++ bytes2 a.tag ++ [a.subState.byte] ++ nat4 a.progress.done ++ nat3 a.progress.card ++
      pointer4 a.progress.mem

/-- The 62 bytes of StatusGet. -/
def StatusReport.bytes (r : StatusReport) : List Byte :=
  [boolByte r.paused ||| (boolByte r.halted <<< 1), byteOf r.entries] ++ activeBytes r.active ++
    r.channels.toList.flatMap ChannelReport.bytes ++
    r.lines.toList.flatMap (fun l => [l.state.byte, boolByte l.again]) ++
    [r.watch.byte] ++ bytes4 r.passCount ++ [byteOf r.period] ++ nat2 r.late ++ [boolByte r.sfault]

/-- A reading: fault kind, value (0 when faulted). R174 gives that 0 for the WATCH notice; for WatchRead it is the model's
choice (log 26). -/
def Reading.bytes : Reading → List Byte
  | .value v => [0] ++ bytes2 v
  | .fault k => [faultByte (some k)] ++ nat2 0

/-- The fail address of a record: present, space, address. -/
def failAddressBytes : Option (Space × Int) → List Byte
  | some (sp, a) => [1, spaceByte sp] ++ address3 a
  | none => [0, 0] ++ nat3 0

/-- The common block of a finished entry's reply: 18 bytes. -/
def commonBytes (p : Progress) (f : Option FailRecord) : List Byte :=
  nat4 p.done ++ nat3 p.card ++ pointer4 p.mem ++ [faultByte (f.map FailRecord.kind)] ++
    failAddressBytes (f.bind FailRecord.at?) ++ [boolByte (match f with | some r => r.isPartial | none => false)]

/-- One value, or two, with their presence byte. -/
def valueField : Option (Word × Word) → List Byte
  | some (v, _) => [1] ++ bytes2 v
  | none => [0] ++ nat2 0

def valuesField : Option (Word × Word) → List Byte
  | some (a, b) => [1] ++ bytes2 a ++ bytes2 b
  | none => [0] ++ nat4 0

/-- The flags of a Scan or Compare: bit 0 `matched`, bit 1 `exhausted`. -/
def scanFlags (r : Gathered) : Byte := boolByte r.matched ||| (boolByte r.exhausted <<< 1)

/-- The result of a kind, after the common block. -/
def resultBytes (kind : Byte) (r : Gathered) : List Byte :=
  match kind.toNat with
  | 0x50 => valueField r.values
  | 0x52 => valuesField r.values
  | 0x53 => r.data
  | 0x54 => [scanFlags r] ++ valueField r.values
  | 0x55 => [scanFlags r] ++ valuesField r.values
  | _ => []

/-- The reply body of a finished entry. -/
def Entry.bytes (e : Entry) : List Byte := commonBytes e.progress e.fail ++ resultBytes e.op.kind e.result

/-! ## Reply bodies -/

/-- The body of an OK reply, by kind; a finished entry's reply has its layout whatever its status. The bytes of a WatchRead
entry that is not held, of every entry with no snapshot, and of QueuePause with no ACTIVE entry are 0: the model's choice
(log 26). -/
def ReplyBody.layout : ReplyBody → List Byte
  | .none => []
  | .identify => nat2 0xB016 ++ [1] ++ nat4 Config.memorySize ++ [16, 4, 8, 8, 32, 15]
  | .status r => r.bytes
  | .windows w => w.toList.flatMap windowBytes
  | .bytes l => l
  | .refresh period late => [byteOf period] ++ nat2 late
  | .channelState st => [st.byte]
  | .placed staged => [boolByte staged]
  | .lineState st => [st.byte]
  | .watchState st => [st.byte]
  | .watchRead st count snapshot =>
    [st.byte] ++ bytes4 count ++ [boolByte snapshot.isSome] ++
      (snapshot.getD readingsNone).toList.flatMap fun r =>
        match r with
        | some r => [1] ++ r.bytes
        | Option.none => List.replicate 4 0
  | .pause Option.none => List.replicate 4 0
  | .pause (some (tag, started)) => [1] ++ bytes2 tag ++ [boolByte started]
  | .flushed n => [byteOf n]
  | .cancel wasActive => [boolByte wasActive]
  | .entry e => e.bytes

/-! ## Notice bodies -/

/-- The action status byte: 0xFF for NONE, else a status code. -/
def ActionStatus.byte : ActionStatus → Byte
  | .none => 0xFF
  | .ok => 0x00
  | .failed r => faultByte (some r.kind)

def ActionStatus.failRecord (st : ActionStatus) : Option FailRecord :=
  match st with
  | .failed r => Option.some r
  | .ok => Option.none
  | .none => Option.none

/-- LINE: line, edges, status, `result_lost`, the fail details, then the result unless the status is NONE. Without fail details
their bytes are 0: of those behind the presence byte that is the model's choice (log 26). -/
def LineBody.bytes (b : LineBody) : List Byte :=
  [byteOf b.line, byteOf b.edges, b.status.byte, boolByte b.resultLost] ++
    failAddressBytes (b.status.failRecord.bind FailRecord.at?) ++
    [boolByte (match b.status.failRecord with | some r => r.isPartial | none => false)] ++
    (match b.result with
    | some r =>
      [r.kind] ++ nat4 r.progress.done ++ nat3 r.progress.card ++ pointer4 r.progress.mem ++ resultBytes r.kind r.result
    | none => [])

def ChannelBody.bytes (b : ChannelBody) : List Byte :=
  [byteOf b.channel, b.reason.byte] ++ nat2 b.blocksDone ++
    [b.state.byte, channelFlags b.overrun b.starved b.protectHit, faultByte b.fault] ++ nat4 b.remaining

/-- The changed set: bit n for entry n. -/
def changedByte (v : Vector Bool 8) : Byte :=
  (List.finRange 8).foldl (fun b i => b ||| (boolByte v[i.val] <<< i.val)) 0

/-- WATCH: pass count, changed set, then each entry of the set in ascending order. What an entry carries that the newer
snapshot does not hold, the fault-kind byte and the value, is free (log 15). -/
def WatchBody.bytes (b : WatchBody) : List Byte :=
  bytes4 b.passCount ++ [changedByte b.changed] ++
    (List.finRange 8).flatMap fun i =>
      if b.changed[i.val] then
        match b.values[i.val] with
        | some r => r.bytes
        | none =>
          [Config.unheldWatchFault b.passCount.toNat i] ++ bytes2 (Config.unheldWatchValue b.passCount.toNat i)
      else []

def NoticeBody.bytes : NoticeBody → List Byte
  | .line b => b.bytes
  | .channel b => b.bytes
  | .watch b => b.bytes
  | .check r => [spaceByte r.space] ++ nat3 r.address ++ r.owner.bytes
  | .refresh late => nat2 late

/-! ## Messages -/

/-- The header of every message: length, kind, code, tag or occurrences. -/
def messageBytes (kind code : Byte) (tag : Word) (body : List Byte) : List Byte :=
  nat2 (6 + body.length) ++ [kind, code] ++ bytes2 tag ++ body

/-- The transfer a message is sent as (R174): a reply carries its kind with the top bit set, its status and its tag; a
notice kind 0x7F, its source and its occurrences. -/
def Message.bytes : Message → List Byte
  | .reply r => messageBytes r.kind (statusByte r.status) r.tag r.body.layout
  | .notice n => messageBytes 0x7F n.source.byte (BitVec.ofNat 16 n.occurrences) n.body.bytes

end Sys2Proof.Machine
end

