-- ==== Sys2Proof/Safety.lean ====
section
/-! DEFINITION. The predicates that claims use: the promises the chapters make in prose of every reachable state (R19,
R48, R51, R122, R154), the canonical form of base memory, what settling leaves alone, where an immediate reply goes, and
what a request asks for, read off the codes of R174 and the ranges of its rule. -/

namespace Sys2Proof.Machine

/-- No two valid entries of the same space overlap, and every BASE_MEMORY entry lies within 0x000000-0x0FFFFF (R19). -/
def windowsOk (ws : Vector (Option Window) 16) : Prop :=
  (∀ (i j : Fin 16) (a b : Window), ws[i.val] = some a → ws[j.val] = some b → i ≠ j → a.overlaps b = false) ∧
    ∀ (i : Fin 16) (a : Window), ws[i.val] = some a → a.owner = .baseMemory →
      a.space = .memory ∧ a.limit < Config.memorySize

/-- The request queue never holds more than 32 entries, and no two entries in it carry the same tag (R48). -/
def queueOk (q : Queue) : Prop := q.entries.length ≤ Config.queueCapacity ∧ (q.entries.map Entry.tag).Nodup

/-- At most one notice for each source (R154). -/
def noticesOk (ns : List Notice) : Prop := (ns.map Notice.source).Nodup

/-- In a block that a channel holds some element is still to be moved, so elements done never exceed its count
(R122). -/
def Block.ok (b : Block) : Prop := b.done < b.count

/-- A staged block only beside a current block, and both with elements to move (R122). -/
structure Channel.Ok (c : Channel) : Prop where
  beside : c.staged.isSome = true → c.current.isSome = true
  current : ∀ b, c.current = some b → b.ok
  staged : ∀ b, c.staged = some b → b.ok

/-- Every channel keeps R122. -/
def channelsOk (s : State) : Prop := ∀ n : Fin 4, (s.channel n).Ok

/-- Every entry older than an ACTIVE one has finished, so at most one is ACTIVE (R51); none is ACTIVE while `halted`
is set (R55). -/
structure activeOk (q : Queue) : Prop where
  order : q.entries.Pairwise fun a b => b.state = .active → a.isFinished = true
  halted : q.halted = true → ∀ e ∈ q.entries, e.state ≠ .active

/-- Base memory is in its canonical form. -/
def memoryOk (s : State) : Prop := Mem.wf s.mem = true

/-- What the settling of the blocks leaves alone: it starts work (a grant, an element, a read, a turn) and ends what is
refused at its start, and writes none of these. -/
structure Untouched (s t : State) : Prop where
  pending : t.pending = s.pending
  link : t.link = s.link
  windows : t.windows = s.windows
  mem : t.mem = s.mem
  sfault : t.sfault = s.sfault
  free : t.free = s.free
  refresh : t.refresh = { s.refresh with pending := t.refresh.pending }
  watch : t.watch.slots = s.watch.slots ∧ t.watch.mode = s.watch.mode ∧ t.watch.interval = s.watch.interval ∧
    t.watch.trigger = s.watch.trigger ∧ t.watch.stopping = s.watch.stopping
  lines : ∀ n, (t.line n).role = (s.line n).role ∧ (t.line n).mode = (s.line n).mode ∧
    (t.line n).service = (s.line n).service ∧ (t.line n).action = (s.line n).action ∧
    (t.line n).level = (s.line n).level
  channels : ∀ n, (t.channel n).config = (s.channel n).config ∧ (t.channel n).current = (s.channel n).current ∧
    (t.channel n).staged = (s.channel n).staged ∧ (t.channel n).blocksDone = (s.channel n).blocksDone ∧
    (t.channel n).protectHit = (s.channel n).protectHit ∧ (t.channel n).sreq = (s.channel n).sreq ∧
    (t.channel n).quiescing = (s.channel n).quiescing
  paused : t.queue.paused = s.queue.paused
  entries : t.queue.entries.map (fun e => (e.tag, e.op, e.cancel, e.progress)) =
    s.queue.entries.map fun e => (e.tag, e.op, e.cancel, e.progress)

/-! ## The link as claims see it -/

/-- The link is CONFIGURED, the slot EMPTY and no transfer waits, so a transfer that arrives is taken at once (R163). -/
structure State.Listening (s : State) : Prop where
  configured : s.link.state = .configured
  empty : s.link.slot = .empty
  noneWaiting : s.link.pipe = []

/-- Where a reply goes that is formed when its request is taken: transmitted at once when the report pipe is FREE,
otherwise READY in the slot (R165, R167). Nothing else changes. -/
def State.replied (s : State) (r : Reply) : State :=
  match s.link.report with
  | .free => s.setLink { s.link with slot := .empty, report := .sending (.reply r) }
  | .sending _ => s.setLink { s.link with slot := .ready r }

/-- The slot goes READY with an OK reply. -/
def State.readied (s : State) (kind : Byte) (tag : Word) (b : ReplyBody) : State :=
  s.setSlot (.ready ⟨kind, .ok, tag, b⟩)

/-- The values every block but the link interface and base memory holds after power-on, and takes for part reset (R14,
R21, R36, R41, R69, R103, R121, R141, R160); the refresh timer, SREQ and SINT levels as given. -/
structure State.Initial (t : State) (timer : Option Nat) (sreq : Fin 4 → Bool) (level : Fin 8 → Bool) : Prop where
  window : t.windows[0] = some ⟨.memory, 0x000000, 0x09FFFF, .baseMemory, .wide, 0, 16, false⟩
  noWindow : ∀ i : Fin 16, i ≠ 0 → t.windows[i.val] = none
  bus : t.bus = ⟨none, none, ⟨.memory, 0x000000, .none⟩, none⟩
  arbiter : t.arbiter = .idle
  refresh : t.refresh = ⟨15, timer, false, 0, 0⟩
  units : t.port.bus = [] ∧ t.port.engine = none ∧ t.port.watch = none ∧ t.port.link = none ∧ t.port.last = .link
  queue : t.queue = ⟨[], false, false⟩
  engine : t.engine = ⟨.idle, none⟩
  channels : ∀ n, t.channel n = ⟨⟨false, .cardToMemory, .one, .single, .once, 0, 16, 0⟩, none, none, .off, 0, false,
    false, false, none, none, sreq n, false, false⟩
  lines : ∀ n, t.line n = ⟨.disabled, .edge, .hold, none, .disabled, false, 0, level n, ⟨0, 0, 0⟩,
    ⟨none, false, false, []⟩, none⟩
  watch : t.watch = ⟨Vector.replicate 8 none, .single, 0, none, .stopped, Vector.replicate 8 none, 0, none, false,
    none, 0, none⟩
  notices : t.notices = []

/-! ## What resets reach -/

/-- `t` has the grants of the cascade tenures of `s` withdrawn (R30, R35, R138): with no channel in MASTER nothing is
changed; the tenure of the channel in MASTER ends, through HANDBACK when the master's strobe is asserted; without
the strobe the master's cycle is over (log 12). -/
structure GrantsWithdrawn (s t : State) : Prop where
  bus : t.bus.cycle = s.bus.cycle ∧ t.bus.group = s.bus.group ∧ t.bus.record = s.bus.record
  noTenure : (∀ n, (s.channel n).state ≠ .master) → t.arbiter = s.arbiter
  tenure : (∃ n, (s.channel n).state = .master) → ∃ n, (s.channel n).state = .master ∧
    t.arbiter = (match s.bus.master with | some m => if m.strobe then .handback n else .idle | none => .idle)
  cycleOver : ∀ m, s.bus.master = some m → m.strobe = false → (∃ n, (s.channel n).state = .master) →
    t.bus.master = none ∧ t.port.bus = s.dropMaster.port.bus ∧ t.port.turn = s.dropMaster.port.turn
  cycleGoesOn : (∀ m, s.bus.master = some m → m.strobe = true) ∨ (∀ n, (s.channel n).state ≠ .master) →
    t.bus.master = s.bus.master ∧ t.port.bus = s.port.bus ∧ t.port.turn = s.port.turn

/-- The watch unit with its pass discarded: a read that is granted or being served runs on, its outcome discarded; one
that waits is withdrawn (R144, R152, R153). -/
def Watch.passDiscarded (w : Watch) (running : Bool) : Watch :=
  { w with
    pass := Vector.replicate 8 none, next := 0
    read := if running then w.read.map fun r => { r with discard := true } else none }

/-- A line takes an event as a link reset reaches it: a LEVEL line with SINT asserted that the reset releases while SRESET
is not held by the power-on pulse, or that is IDLE when the reset releases the SRESET of a SlotReset (R104, R118,
R119). -/
def Line.resetEvent (l : Line) (sreset : SReset) : Bool :=
  l.role == .interrupt && l.mode == .level && l.level &&
    (((l.state == .inService || l.state == .faulted) && sreset != .powerOn) ||
      (l.state == .idle && sreset == .slotReset))

/-! ## Codes of the listed values (R174) -/

def Width.code : Width → Byte
  | .one => 1
  | .two => 2

def Step.code : Step → Byte
  | .inc => 0
  | .dec => 1
  | .fixed => 2

def MemStep.code : MemStep → Byte
  | .inc => 0
  | .dec => 1

def Direction.code : Direction → Byte
  | .into => 0
  | .out => 1

def Condition.code : Condition → Byte
  | .eq => 0
  | .ne => 1
  | .ult => 2
  | .ule => 3
  | .ugt => 4
  | .uge => 5
  | .slt => 6
  | .sge => 7
  | .any => 8
  | .none => 9

def ChannelDirection.code : ChannelDirection → Byte
  | .cardToMemory => 0
  | .memoryToCard => 1
  | .verify => 2

def ChannelMode.code : ChannelMode → Byte
  | .single => 0
  | .demand => 1
  | .block => 2
  | .cascade => 3

def EndMode.code : EndMode → Byte
  | .once => 0
  | .reload => 1

def LineRole.code : LineRole → Byte
  | .disabled => 0
  | .interrupt => 1
  | .trigger => 2

def LineMode.code : LineMode → Byte
  | .edge => 0
  | .level => 1

def Service.code : Service → Byte
  | .hold => 0
  | .auto => 1

def WatchMode.code : WatchMode → Byte
  | .single => 0
  | .cyclic => 1

def AwaitSource.code : AwaitSource → Byte
  | .line n => BitVec.ofNat 8 n
  | .channel n => BitVec.ofNat 8 (8 + n.val)
  | .watch => 12

/-- A trigger setting: a line number, or 0xFF for none. -/
def triggerCode : Option (Fin 8) → Byte
  | some n => BitVec.ofNat 8 n
  | none => 0xFF

/-- A value that a width can hold. -/
def Width.Holds (w : Width) (v : Word) : Prop := v.toNat < 256 ^ w.bytes

/-- The memory side of a Transfer of so many bytes (R77). -/
def MemorySide.Asked (dir : Direction) (bytes : Nat) (side : Byte) (offset : BitVec 24) (step : Byte)
    (data : List Byte) : MemorySide → Prop
  | .base off st => side = 0 ∧ offset.toNat = off ∧ off < Config.memorySize ∧ step = st.code ∧ data = []
  | .inline d =>
    side = 1 ∧ bytes ≤ 1024 ∧ offset = 0 ∧ step = 0 ∧ d = data ∧
      data.length = (match dir with | .into => 0 | .out => bytes)

/-- The request queue admits a tag: no entry carries it and there is room (R50). -/
def Queue.admits (q : Queue) (tag : Word) : Prop := (∀ e ∈ q.entries, e.tag ≠ tag) ∧ q.entries.length < 32

end Sys2Proof.Machine

namespace Sys2Proof

open Sys2Proof.Machine

/-! ## What a request asks for -/

/-- The kinds whose requests carry data bytes: MemoryWrite, Transfer, LineSet (R163). -/
def RequestBody.takesData : RequestBody → Bool
  | .memoryWrite _ | .transfer _ | .lineSet _ => true
  | _ => false

/-- A card side with every field in its range (R70). -/
structure CardFields.Asks (c : CardFields) (k : CardSide) : Prop where
  space : c.space = spaceByte k.space
  address : c.address.toNat = k.address
  inSpace : k.address < spaceSize k.space
  width : c.width = k.width.code

/-- A Transfer with every field in its range (R70, R77). -/
def TransferFields.Asks (f : TransferFields) (data : List Byte) : Op → Prop
  | .transfer dir card step count side =>
    f.direction = dir.code ∧ CardFields.Asks ⟨f.space, f.address, f.width⟩ card ∧ f.cardStep = step.code ∧
      f.count.toNat = count ∧ 1 ≤ count ∧ count ≤ 65536 ∧
      side.Asked dir (count * card.width.bytes) f.side f.offset f.memoryStep data
  | _ => False

/-- A Scan with every field in its range (R88). -/
def ScanFields.Asks (f : ScanFields) : Op → Prop
  | .scan card step count cond operand mask interval capture =>
    CardFields.Asks ⟨f.space, f.address, f.width⟩ card ∧ f.step = step.code ∧ f.count.toNat = count ∧ 1 ≤ count ∧
      count ≤ 65536 ∧ f.condition = cond.code ∧ f.operand = operand ∧ card.width.Holds operand ∧ f.mask = mask ∧
      card.width.Holds mask ∧ f.interval.toNat = interval ∧
      (match capture with
      | some off => f.capturePresent = 1 ∧ f.capture.toNat = off ∧ off < Config.memorySize
      | none => f.capturePresent = 0 ∧ f.capture = 0)
  | _ => False

/-- A Compare with every field in its range (R94). -/
def CompareFields.Asks (f : CompareFields) : Op → Prop
  | .compare card step off ms count cond mask =>
    CardFields.Asks ⟨f.space, f.address, f.width⟩ card ∧ f.cardStep = step.code ∧ f.offset.toNat = off ∧
      off < Config.memorySize ∧ f.memoryStep = ms.code ∧ f.count.toNat = count ∧ 1 ≤ count ∧ count ≤ 65536 ∧
      f.condition = cond.code ∧ f.mask = mask ∧ card.width.Holds mask
  | _ => False

/-- The operation a queued request asks for, when all its fields are in range and it carries the data its kind takes
(R50, R63, R64, R66, R70, R77, R88, R94). -/
def RequestBody.Asks (b : RequestBody) (data : List Byte) (op : Op) : Prop :=
  match b, op with
  | .read c, .read k => data = [] ∧ c.Asks k
  | .write c v, .write k v' => data = [] ∧ c.Asks k ∧ v = v' ∧ k.width.Holds v
  | .modify c x o, .modify k x' o' => data = [] ∧ c.Asks k ∧ x = x' ∧ k.width.Holds x ∧ o = o' ∧ k.width.Holds o
  | .transfer f, op => f.Asks data op
  | .scan f, op => data = [] ∧ f.Asks op
  | .compare f, op => data = [] ∧ f.Asks op
  | .delay d, .delay n => data = [] ∧ d.toNat = n ∧ 1 ≤ n ∧ n ≤ 1000000
  | .await g t, .await src n => data = [] ∧ g = src.code ∧ t.toNat = n ∧ 1 ≤ n
  | .slotReset d, .slotReset n => data = [] ∧ d.toNat = n ∧ 10 ≤ n
  | _, _ => False

/-- The kinds that enter the request queue. -/
def RequestBody.queued : RequestBody → Bool
  | .read _ | .write _ _ | .modify _ _ _ | .transfer _ | .scan _ | .compare _ | .delay _ | .await _ _
  | .slotReset _ => true
  | _ => false

/-- A WindowSet with every field in its range: entry n, window w (R14, R19). -/
structure WindowFields.Asks (f : WindowFields) (n : Fin 16) (w : Window) : Prop where
  entry : f.entry.toNat = n
  space : f.space = spaceByte w.space
  base : f.base.toNat = w.base
  limit : f.limit.toNat = w.limit
  ordered : w.base ≤ w.limit
  inSpace : w.limit < spaceSize w.space
  owner : f.owner = w.owner.byte
  width : f.width = w.width.byte
  waitCount : f.waitCount.toNat = w.waitCount ∧ w.waitCount ≤ 7
  readyTimeout : f.readyTimeout.toNat = w.readyTimeout ∧ 1 ≤ w.readyTimeout
  writeProtect : f.writeProtect = boolByte w.writeProtect
  memory : w.owner = .baseMemory → w.space = .memory ∧ w.limit < 0x100000

/-- A ChannelSet with every field in its range (R121, R123). -/
structure ChannelFields.Asks (f : ChannelFields) (n : Fin 4) (c : ChannelConfig) : Prop where
  channel : f.channel.toNat = n
  enable : f.enable = boolByte c.enable
  direction : f.direction = c.direction.code
  width : f.width = c.width.code
  mode : f.mode = c.mode.code
  endMode : f.endMode = c.endMode.code
  waitCount : f.waitCount.toNat = c.waitCount ∧ c.waitCount ≤ 7
  readyTimeout : f.readyTimeout.toNat = c.readyTimeout ∧ 1 ≤ c.readyTimeout
  tenureLimit : f.tenureLimit.toNat = c.tenureLimit

/-- A ChannelStage with every field in its range: the fresh block (R124). -/
structure StageFields.Asks (f : StageFields) (n : Fin 4) (b : Block) : Prop where
  channel : f.channel.toNat = n
  offset : (f.offset.toNat : Int) = b.offset
  inMemory : f.offset.toNat < 0x100000
  count : f.count.toNat = b.count ∧ 1 ≤ b.count ∧ b.count ≤ 65536
  step : f.step = b.step.code
  fresh : b.done = 0 ∧ b.original = f.offset.toNat

/-- The action of a LineSet: none, or an operation of the kinds Read to Scan within its ranges, an inline IN buffer of
at most 64 bytes (R116). -/
def ActionFields.Asks (a : ActionFields) (data : List Byte) : Option Op → Prop
  | none => a = .absent ∧ data = []
  | some op =>
    (match a with
    | .absent => False
    | .read c => (RequestBody.read c).Asks data op
    | .write c v => (RequestBody.write c v).Asks data op
    | .modify c x o => (RequestBody.modify c x o).Asks data op
    | .transfer f => (RequestBody.transfer f).Asks data op
    | .scan f => (RequestBody.scan f).Asks data op
    | .unlisted _ => False) ∧
    (match op with
    | .transfer .into card _ count (.inline _) => count * card.width.bytes ≤ 64
    | _ => True)

/-- A LineSet with every field in its range and no conflict among them (R116). -/
structure LineFields.Asks (f : LineFields) (data : List Byte) (n : Fin 8) (c : LineConfig) : Prop where
  line : f.line.toNat = n
  role : f.role = c.role.code
  mode : f.mode = c.mode.code
  service : f.service = c.service.code
  action : f.action.Asks data c.action
  levelHolds : c.role = .interrupt → c.mode = .level → c.service = .hold
  triggerEdge : c.role = .trigger → c.mode = .edge
  actionRole : c.role ≠ .interrupt → c.action = none

/-- A slot of a WatchSet: invalid, or valid with every field in its range (R143). -/
def WatchSlotFields.Asks (f : WatchSlotFields) : Option WatchEntry → Prop
  | none => f.valid = 0
  | some e =>
    f.valid = 1 ∧ CardFields.Asks ⟨f.space, f.address, f.width⟩ ⟨e.space, e.address, e.width⟩ ∧ f.mask = e.mask ∧
      e.width.Holds e.mask ∧ f.report = boolByte e.report

/-- A WatchSet with every field in its range (R143). -/
structure WatchFields.Asks (f : WatchFields) (c : WatchConfig) : Prop where
  mode : f.mode = c.mode.code
  interval : f.interval.toNat = c.interval
  trigger : f.trigger = triggerCode c.trigger
  slots : ∀ i : Fin 8, (f.slots[i.val]).Asks c.slots[i.val]

end Sys2Proof
end

