-- ==== Sys2Proof/Certificates/Slice0/Obligations.lean ====
section
/-! DEFINITION. The statements for the provers. `X.settle` in a conclusion is what a step does after the command's own
effect: the blocks settle, then the link interface takes what waits; what the blocks' settling leaves alone is
`SettlingLeavesRecordsAlone`. -/

open Sys2Proof Sys2Proof.Machine

/-! ## The step and the queue of commands -/

/-- A step takes the command at the front of the queue and is its `exec` on the state with the queue's rest. On an empty
queue the block settles (the model's choice, log 8). -/
def Obligations.StepRunsFrontCommand : Prop :=
  (∀ (c : Instr) (rest : List Instr) (s : State), s.pending = c :: rest → step s = exec c (s.setPending rest)) ∧
  (∀ s : State, s.pending = [] → step s = .next s.settle)

/-- Every command answers a next state, and leaves the commands that wait alone. -/
def Obligations.EveryCommandCompletes : Prop :=
  ∀ (c : Instr) (s : State), ∃ t, exec c s = .next t ∧ t.pending = s.pending

/-- The settling of the blocks is five parts in this order (the model's choice, log 16), the watch unit's part bounded to ten
reads and passes (the model's choice, log 8), and writes none of the records of `Untouched`: base
memory, the window table, the link, the configurations, the blocks of the channels, the tags, operations and progress of
the entries. The engine's choice: with an element in flight, or an action between its reads, nothing; an action whose
interval has ended goes on with its next element; otherwise the lowest PENDING line that has an action is taken (ACTING,
the engine in ACTION); else the ACTIVE entry's next element begins, unless it waits, is marked or the queue is paused;
else the oldest QUEUED entry becomes ACTIVE with its wait timer, unless paused or halted, a SlotReset asserting SRESET;
with nothing to begin the engine is IDLE. An element that passes its checks starts: its unit waits at the port, or it
claims the bus; one that does not fails its item. SRESET asserted: MOVING channels are to stop at their boundary, cascade
channels go IDLE with their grant withdrawn, a pass in progress is discarded. That a master's cycle without its strobe is over
at the withdrawal, and a read unit of it that waits is dropped, is the model's choice (log 12). -/
def Obligations.SettlingLeavesRecordsAlone : Prop :=
  (∀ s : State, Untouched s s.settleBlocks ∧
    s.settleBlocks = (State.watchContinue 10 (State.engineChoose 24 s.channelLevels)).arbitrate.portChoose) ∧
  (∀ (k : Nat) (s : State),
    (s.engineChoice = none → State.engineChoose (k + 1) s = s.engineRest) ∧
    ∀ t, s.engineChoice = some t → State.engineChoose (k + 1) s = State.engineChoose k t) ∧
  (∀ (s : State) (e : Element), s.engine.element = some e → s.engineChoice = none ∧ s.engineRest = s) ∧
  (∀ (s : State) (n : Fin 8), s.engine = ⟨.action n, none⟩ →
    s.engineRest = s ∧ ((s.line n).interval ≠ none → s.engineChoice = none) ∧
    ∀ op, (s.line n).interval = none → (s.line n).action = some op →
      s.engineChoice = some (s.beginElement (.line n) (.line n) op (s.line n).progress)) ∧
  (∀ s : State, s.engine = ⟨.idle, none⟩ ∨ s.engine = ⟨.entry, none⟩ →
    s.engineRest = s.setEngine ⟨.idle, none⟩ ∧
    (∀ n op, (s.line n).state = .pending → (s.line n).action = some op →
      (∀ m, m < n → (s.line m).state = .pending → (s.line m).action = none) →
      s.engineChoice = some ((s.setLine n { s.line n with
        state := .acting, progress := op.start, result := Gathered.empty, interval := none }).setEngine
          ⟨.action n, none⟩)) ∧
    ((∀ m, (s.line m).state = .pending → (s.line m).action = none) →
      (∀ e, s.queue.active = some e →
        (e.timer = none → e.cancel = false → e.op.cardSide ≠ none → s.queue.paused = false →
          s.engineChoice =
            some ((s.setEngine ⟨.entry, none⟩).beginElement .entry (.queue e.tag) e.op e.progress)) ∧
        (e.timer ≠ none ∨ e.cancel = true ∨ e.op.cardSide = none ∨ s.queue.paused = true →
          s.engineChoice = none)) ∧
      (s.queue.active = none →
        (s.queue.paused = true ∨ s.queue.halted = true ∨ (∀ e ∈ s.queue.entries, e.state ≠ .queued) →
          s.engineChoice = none) ∧
        ∀ xs e ys, s.queue.entries = xs ++ e :: ys → (∀ x ∈ xs, x.state ≠ .queued) → e.state = .queued →
          s.queue.paused = false → s.queue.halted = false →
          let wait : Option Nat :=
            match e.op with | .delay d => some d | .await _ ms => some ms | .slotReset d => some d | _ => none
          let t := s.setQueue { s.queue with entries := xs ++ { e with state := .active, timer := wait } :: ys }
          ((∀ d, e.op ≠ .slotReset d) → s.engineChoice = some t) ∧
          ∀ d, e.op = .slotReset d → s.engineChoice = some t.sresetAssert))) ∧
  (∀ (s : State) (item : WorkItem) (owner : CycleOwner) (op : Op) (p : Progress),
    (∀ r, planElement s.windows item owner op p = some (.refuse r) →
      s.beginElement item owner op p = s.itemFailed item r none) ∧
    ∀ e, planElement s.windows item owner op p = some (.start e) →
      let t := s.setEngine { s.engine with element := some e }
      (∀ off, e.stage = .memoryFirst off →
        s.beginElement item owner op p = t.setPort { s.port with engine := some ⟨.engine, off, e.width, .read⟩ }) ∧
      (e.stage = .card → e.attrs.owner ≠ .baseMemory → s.beginElement item owner op p = t) ∧
      (e.stage = .card → e.attrs.owner = .baseMemory →
        s.beginElement item owner op p = t.setPort { s.port with engine := some ⟨.engine, e.address, e.width,
          match e.op with | .read => .read | .write v => .write v | .modify a o => .modify a o⟩ })) ∧
  ∀ s : State,
    let t := s.sresetAssert
    t.sreset = .slotReset ∧ GrantsWithdrawn s t ∧
    (∀ n, let c := s.channel n
      (c.state = .moving → t.channel n = { c with stopped := true }) ∧
      (c.state = .waiting ∨ c.state = .heldOff → t.channel n = { c with state := .idle }) ∧
      (c.state = .master → t.channel n = { c with state := .idle, tenureTimer := none }) ∧
      (c.state = .off ∨ c.state = .idle ∨ c.state = .ready ∨ c.state = .faulted → t.channel n = c)) ∧
    (s.watch.state ≠ .scanning → t.watch = s.watch ∧ t.port.watch = s.port.watch) ∧
    (s.watch.state = .scanning → t.watch = s.watch.passDiscarded s.watchReadRunning ∧
      t.port.watch = if s.watch.read = none ∨ s.watchReadRunning = true then s.port.watch else none) ∧
    t.pending = s.pending ∧ t.link = s.link ∧ t.windows = s.windows ∧ t.sfault = s.sfault ∧ t.refresh = s.refresh ∧
    t.mem = s.mem ∧ t.queue = s.queue ∧ t.engine = s.engine ∧ t.lines = s.lines ∧ t.notices = s.notices ∧
    t.free = s.free ∧ t.port.last = s.port.last ∧ t.port.engine = s.port.engine ∧ t.port.link = s.port.link

/-! ## Power-on, resets, the link -/

/-- POWER_ON: every block at its power-on value, the levels those of the cards, SRESET asserted, the link DETACHED with
the fill to run; the commands that wait stay. Base memory is left as it was until the fill (log 7). -/
def Obligations.PowerOnValues : Prop :=
  ∀ (sfault : Bool) (sint : BitVec 8) (sreq : BitVec 4) (s : State), ∃ t,
    exec (.powerOn sfault sint sreq) s = .next t ∧
    t.Initial (some 15) (fun n => sreq.getLsbD n) (fun n => sint.getLsbD n) ∧ t.port.turn = none ∧
    t.sfault = sfault ∧ t.sreset = .powerOn ∧ t.link = ⟨.detached, false, .empty, .free, [], false⟩ ∧
    t.mem = s.mem ∧ t.pending = s.pending ∧ t.free = s.free

/-- The machine after reset is a power-on with every card line deasserted (log 1), and the promises hold in it. -/
def Obligations.PromisesHoldAtReset : Prop :=
  exec (.powerOn false 0 0) State.reset = .next State.reset ∧ memoryOk State.reset ∧ windowsOk State.reset.windows ∧
    queueOk State.reset.queue ∧ activeOk State.reset.queue ∧ noticesOk State.reset.notices ∧ channelsOk State.reset

/-- PART_RESET: every block but the link interface takes its initial value, the refresh timer stopped until the reset
ends (log 9); base memory, the card levels, a power-on pulse and a begun turn stay; the slot is WORKING. PART_RESET_END: with no
turn in progress the timer restarts at 15 µs and the reply is formed; with a turn in progress, or with no part reset
running, the command has no effect of its own (log 3). -/
def Obligations.PartResetAndItsEnd : Prop :=
  (∀ (tag : Word) (s : State), s.Listening → ∃ t, exec (.partReset tag []) s = .next t ∧
      t.Initial none (fun n => (s.channel n).sreq) (fun n => (s.line n).level) ∧ t.mem = s.mem ∧ t.sfault = s.sfault ∧
      t.port.turn = s.port.turn.map (fun u => { u with requester := .orphan }) ∧
      (t.sreset = .powerOn ↔ s.sreset = .powerOn) ∧ (s.sreset ≠ .powerOn → t.sreset = .released) ∧
      t.link = { s.link with slot := .working .partReset 0x03 tag, resetting := true } ∧ t.pending = s.pending) ∧
  ((∀ (kind : Byte) (tag : Word) (s : State), s.link.resetting = true → s.port.turn = none →
      s.link.slot = .working .partReset kind tag →
      exec .partResetEnd s = .next (State.settle
        ((s.setRefresh { s.refresh with timer := some 15 }).setLink
          { s.link with resetting := false, slot := .ready ⟨kind ||| 0x80, .ok, tag, .none⟩ }))) ∧
    ∀ s : State, s.link.resetting = false ∨ s.port.turn ≠ none → exec .partResetEnd s = .next s.settle)

/-- START_UP_FILL_DONE writes 0 to every byte and lets the link be configured, and a second one changes nothing (log 3);
LINK_CONFIGURED opens the pipes once that is done, and changes nothing before (log 3) or when the link is CONFIGURED.
POWER_ON_SRESET_END releases SRESET, and asserted LEVEL lines that are IDLE take their events; before the engine chooses again
channels with SREQ asserted claim, a SCANNING watch unit starts its read, and an IDLE arbiter and a free port take what waits (the
order among blocks is log 16); with no power-on pulse it has no effect of its own (log 3). The level rule of one line: an INTERRUPT line in LEVEL mode that is IDLE with SINT asserted and
SRESET released takes an event, PENDING with an action, else its notice; any other line is left alone. At a release the
lines follow it from 0 to 7 (log 24), each on its own record. -/
def Obligations.StartUpReleaseAndConfiguration : Prop :=
  ((∀ s : State, s.link.filled = false →
      exec .startUpFillDone s = .next ((s.setMem []).setLink { s.link with filled := true })) ∧
    (∀ s : State, s.link.filled = true → exec .startUpFillDone s = .next s) ∧
    (∀ s : State, s.link.state = .detached → s.link.filled = true →
      exec .linkConfigured s =
        .next (s.setLink { s.link with state := .configured, slot := .empty, report := .free }).settleLink) ∧
    ∀ s : State, s.link.state = .configured ∨ s.link.filled = false → exec .linkConfigured s = .next s) ∧
  ((∀ s : State, s.sreset = .powerOn →
      exec .powerOnSresetEnd s = .next (State.settle
        (State.watchReads 8 (s.setSreset .released).linesLevelRule.channelLevels).arbitrate.portChoose)) ∧
    ∀ s : State, s.sreset ≠ .powerOn → exec .powerOnSresetEnd s = .next s.settle) ∧
  (∀ (s : State) (n : Fin 8),
    let l := s.line n
    let due := l.role = .interrupt ∧ l.mode = .level ∧ l.state = .idle ∧ l.level = true ∧ s.sreset = .released
    (¬ due → s.lineLevelRule n = s) ∧
    (due → l.action ≠ none →
      s.lineLevelRule n = s.setLine n { l with state := .pending, edges := min 255 (l.edges + 1) }) ∧
    (due → l.action = none →
      s.lineLevelRule n =
        ((s.setLine n { l with state := match l.service with | .hold => .inService | .auto => .idle, edges := 0
          }).setNotices (postTo s.notices (.line n)
            (.line ⟨n, min 255 (l.edges + 1), .none, none, false⟩))).deliver (.line n))) ∧
  ∀ s : State,
    s.linesLevelRule = ((((((((s.lineLevelRule 0).lineLevelRule 1).lineLevelRule 2).lineLevelRule 3).lineLevelRule
      4).lineLevelRule 5).lineLevelRule 6).lineLevelRule 7) ∧
    ∀ n, s.linesLevelRule.line n = (s.lineLevelRule n).line n

/-- LINK_RESET in CONFIGURED (the order of its parts is log 13). Link: DETACHED, slot and report pipe empty; the transfers
that wait in the request pipe are lost (log 5). Port: a link-side request stops at its unit. Lines: IN_SERVICE and FAULTED go to IDLE
with `again` cleared, and a LEVEL line released, or IDLE as a SlotReset's SRESET is released, takes one event with SINT
asserted: PENDING, or its notice, and those notices, lines 0 to 7, are all that wait. Queue: empty, flags cleared; the
engine carries on an element of an entry as an orphan; a SlotReset's SRESET is released. Channels: quiesced by their
state, MASTER through the withdrawal of its grant; that a master's cycle without its strobe is then over, and a read unit of it
that waits is dropped, is the model's choice (log 12). Watch unit: STOPPED, its pass discarded. All else stays. Then the blocks
settle. In DETACHED it changes nothing. -/
def Obligations.LinkResetReachesEveryBlock : Prop :=
  (∀ s : State, s.link.state = .detached → exec .linkReset s = .next s) ∧
  ∀ s : State, s.link.state = .configured → ∃ x : State, exec .linkReset s = .next x.settleBlocks ∧
    x.link = { s.link with state := .detached, slot := .empty, report := .free, pipe := [] } ∧
    x.queue = ⟨[], false, false⟩ ∧
    x.engine = { s.engine with
      element := s.engine.element.map fun e => if e.item = .entry then { e with item := .orphan } else e } ∧
    x.sreset = (match s.sreset with | .slotReset => .released | .released => .released | .powerOn => .powerOn) ∧
    x.pending = s.pending ∧ x.windows = s.windows ∧ x.sfault = s.sfault ∧ x.refresh = s.refresh ∧ x.mem = s.mem ∧
    x.free = s.free ∧
    x.port.link = none ∧ x.port.last = s.port.last ∧ x.port.engine = s.port.engine ∧
    x.port.watch = (if s.watch.read = none ∨ s.watchReadRunning = true then s.port.watch else none) ∧
    GrantsWithdrawn (s.setPort { s.port with
      turn := s.port.turn.map fun u => if u.requester = .link then { u with requester := .orphan } else u }) x ∧
    x.watch = { s.watch.passDiscarded s.watchReadRunning with state := .stopped, stopping := false, rest := none } ∧
    (∀ n, let c := s.channel n
      (c.state = .moving → x.channel n = { c with quiescing := true }) ∧
      ∀ st : ChannelState, (c.state = .off ∧ st = .off) ∨
        ((c.state = .idle ∨ c.state = .ready ∨ c.state = .faulted) ∧ st = .idle) ∨
        (c.state = .waiting ∧ st = if c.sreq then .heldOff else .idle) ∨
        ((c.state = .master ∨ c.state = .heldOff) ∧ st = .heldOff) →
        x.channel n = ⟨c.config, none, none, st, 0, false, false, false, none,
          if c.state = .master then none else c.tenureTimer, c.sreq, false, false⟩) ∧
    (∀ n, let l := s.line n
      let again := l.again && l.state == .idle
      (l.resetEvent s.sreset = false → l.state = .inService ∨ l.state = .faulted →
        x.line n = { l with state := .idle, again := false }) ∧
      (l.resetEvent s.sreset = false → l.state ≠ .inService → l.state ≠ .faulted → x.line n = l) ∧
      (l.resetEvent s.sreset = true → l.action ≠ none →
        x.line n = { l with state := .pending, again := again, edges := min 255 (l.edges + 1) }) ∧
      (l.resetEvent s.sreset = true → l.action = none →
        x.line n = { l with
          state := match l.service with | .hold => .inService | .auto => .idle
          again := again, edges := 0 })) ∧
    x.notices =
      ((List.finRange 8).filter fun n => (s.line n).resetEvent s.sreset && (s.line n).action.isNone).map fun n =>
        ⟨.line n, 1, .line ⟨n, min 255 ((s.line n).edges + 1), .none, none, false⟩⟩

/-- While the link is DETACHED a transfer on the request pipe is discarded and changes nothing: R162 says that no request
is taken then, and that it is lost and not kept for the next host is the model's choice (log 3, log 5). While the slot
holds a request or a reply, a transfer waits behind those that wait already. -/
def Obligations.RequestsDiscardedOrHeldOff : Prop :=
  ((∀ (i : Instr) (r : HostRequest) (s : State), i.request? = some r → s.link.state = .detached →
      exec i s = .next s) ∧
    ∀ (transfer : List Byte) (s : State), s.link.state = .detached →
      exec (.requestRefusedAtFraming transfer) s = .next s) ∧
  ((∀ (i : Instr) (r : HostRequest) (s : State), i.request? = some r → s.link.state = .configured →
      s.link.slot ≠ .empty → exec i s = .next (s.setLink { s.link with pipe := s.link.pipe ++ [.request r] })) ∧
    ∀ (transfer : List Byte) (s : State), s.link.state = .configured → s.link.slot ≠ .empty →
      exec (.requestRefusedAtFraming transfer) s =
        .next (s.setLink { s.link with pipe := s.link.pipe ++ [frame transfer] }))

/-- A kind that carries no data refuses data bytes with BAD_FIELD, and nothing else happens. -/
def Obligations.DataBytesRefused : Prop :=
  ∀ (i : Instr) (r : HostRequest) (s : State), i.request? = some r → r.wf = true → r.body.takesData = false →
    r.data ≠ [] → s.Listening →
    exec i s = .next (s.replied ⟨r.body.kind ||| 0x80, .badField, r.tag, .none⟩)

/-- The checks of the framing, in their order: size, length field, kind, code, fixed part. REQUEST_REFUSED_AT_FRAMING:
the refusal is a reply of the header alone. -/
def Obligations.FramingChecksInOrder : Prop :=
  ((∀ l : List Byte, l.length < 6 → frame l = .refused ⟨0x80, .badLength, 0⟩) ∧
    ∀ (l0 l1 kind code t0 t1 : Byte) (body : List Byte),
      let transfer := l0 :: l1 :: kind :: code :: t0 :: t1 :: body
      let tag : Word := t1 ++ t0
      let lengthOk := (l1 ++ l0 : Word).toNat = transfer.length ∧ transfer.length ≤ 1100
      (¬ lengthOk → frame transfer = .refused ⟨kind ||| 0x80, .badLength, tag⟩) ∧
      (lengthOk → (∀ b : RequestBody, b.kind ≠ kind) → frame transfer = .refused ⟨kind ||| 0x80, .badKind, tag⟩) ∧
      (lengthOk → (∃ b : RequestBody, b.kind = kind) → code ≠ 0 →
        frame transfer = .refused ⟨kind ||| 0x80, .badField, tag⟩) ∧
      (lengthOk → code = 0 →
        ∀ b : RequestBody, b.kind = kind → (∀ f, b ≠ .lineSet f) → body.length < b.size →
          frame transfer = .refused ⟨kind ||| 0x80, .badLength, tag⟩) ∧
      (lengthOk → code = 0 → kind = 0x30 → body.length < 5 →
        frame transfer = .refused ⟨kind ||| 0x80, .badLength, tag⟩)) ∧
  (∀ (transfer : List Byte) (r : FramingRefusal) (s : State), frame transfer = .refused r → s.Listening →
      exec (.requestRefusedAtFraming transfer) s = .next (s.replied ⟨r.kind, r.status, r.tag, .none⟩))

/-- Every request laid out by the encoder is read back by the framing: tag, body and data bytes, every bit of them. A request
is laid out as the tables of R174 give: length, kind, code 0 and tag, the fields of its kind in their order, little-endian, then
its data bytes. What the B16 sends is laid out as the tables of R174 give: the header of six bytes (a reply its kind, status and tag, a notice
0x7F, its source and its occurrences), then the body of its kind, the codes numbered in the tables' order. A failing
address below 0 wraps in its three bytes (log 17); what a WATCH notice carries for an entry that the newer snapshot does not
hold is free (log 15). The zeros in the fields of what a WatchRead, StatusGet or QueuePause reply or a LINE notice has nothing to
say of, and in the value of a faulted entry in WatchRead, are the model's choice (log 26). -/
def Obligations.FramingReadsWhatIsEncoded : Prop :=
  (∀ r : HostRequest, r.wf = true → frame (encodeRequest r) = .request r) ∧
  ((∀ a b : Byte, bytes2 (b ++ a) = [a, b]) ∧ (∀ a b c : Byte, bytes3 (c ++ b ++ a) = [a, b, c]) ∧
    ∀ a b c d : Byte, bytes4 (d ++ c ++ b ++ a) = [a, b, c, d]) ∧
  let laid (kind : Byte) (b : RequestBody) (body : List Byte) : Prop := ∀ (tag : Word) (data : List Byte),
    encodeRequest ⟨tag, b, data⟩ =
      bytes2 (BitVec.ofNat 16 (6 + body.length + data.length)) ++ [kind, 0x00] ++ bytes2 tag ++ body ++ data
  let window (f : WindowFields) : List Byte := [f.entry, f.space] ++ bytes3 f.base ++ bytes3 f.limit ++
    [f.owner, f.width, f.waitCount, f.readyTimeout, f.writeProtect]
  let card (c : CardFields) : List Byte := [c.space] ++ bytes3 c.address ++ [c.width]
  let move (f : TransferFields) : List Byte := [f.direction, f.space] ++ bytes3 f.address ++ [f.cardStep, f.width] ++
    bytes4 f.count ++ [f.side] ++ bytes3 f.offset ++ [f.memoryStep]
  let scan (f : ScanFields) : List Byte := [f.space] ++ bytes3 f.address ++ [f.step, f.width] ++ bytes4 f.count ++
    [f.condition] ++ bytes2 f.operand ++ bytes2 f.mask ++ bytes2 f.interval ++ [f.capturePresent] ++ bytes3 f.capture
  let action (a : ActionFields) : List Byte :=
    match a with
    | .absent => [0x00]
    | .read c => 0x50 :: card c
    | .write c v => 0x51 :: card c ++ bytes2 v
    | .modify c x o => 0x52 :: card c ++ bytes2 x ++ bytes2 o
    | .transfer f => 0x53 :: move f
    | .scan f => 0x54 :: scan f
    | .unlisted k => [k]
  let watched (w : WatchSlotFields) : List Byte :=
    [w.valid, w.space] ++ bytes3 w.address ++ [w.width] ++ bytes2 w.mask ++ [w.report]
  (laid 0x01 .identify [] ∧ laid 0x02 .statusGet [] ∧ laid 0x03 .partReset [] ∧
    (∀ f, laid 0x10 (.windowSet f) (window f)) ∧ (∀ e, laid 0x11 (.windowClear e) [e]) ∧ laid 0x12 .windowList [] ∧
    (∀ o n, laid 0x18 (.memoryRead o n) (bytes3 o ++ bytes2 n)) ∧ (∀ o, laid 0x19 (.memoryWrite o) (bytes3 o)) ∧
    (∀ o n p, laid 0x1A (.memoryFill o n p) (bytes3 o ++ bytes3 n ++ [p])) ∧
    (∀ p c, laid 0x20 (.refreshSet p c) [p, c]) ∧
    (∀ f : ChannelFields, laid 0x28 (.channelSet f) [f.channel, f.enable, f.direction, f.width, f.mode, f.endMode,
      f.waitCount, f.readyTimeout, f.tenureLimit]) ∧
    (∀ f : StageFields, laid 0x29 (.channelStage f) ([f.channel] ++ bytes3 f.offset ++ bytes4 f.count ++ [f.step])) ∧
    (∀ c, laid 0x2A (.channelQuiesce c) [c]) ∧
    (∀ f : LineFields, laid 0x30 (.lineSet f) ([f.line, f.role, f.mode, f.service] ++ action f.action)) ∧
    (∀ n, laid 0x31 (.lineEnd n) [n]) ∧
    (∀ f : WatchFields, laid 0x38 (.watchSet f) ([f.mode] ++ bytes2 f.interval ++ [f.trigger] ++
      (List.finRange 8).flatMap fun i => watched f.slots[i.val])) ∧
    laid 0x39 .watchStart [] ∧ laid 0x3A .watchStop [] ∧ laid 0x3B .watchRead [] ∧ laid 0x40 .queuePause [] ∧
    laid 0x41 .queueResume [] ∧ laid 0x42 .queueFlush [] ∧ (∀ t, laid 0x43 (.queueCancel t) (bytes2 t)) ∧
    (∀ c, laid 0x50 (.read c) (card c)) ∧ (∀ c v, laid 0x51 (.write c v) (card c ++ bytes2 v)) ∧
    (∀ c x o, laid 0x52 (.modify c x o) (card c ++ bytes2 x ++ bytes2 o)) ∧
    (∀ f, laid 0x53 (.transfer f) (move f)) ∧ (∀ f, laid 0x54 (.scan f) (scan f)) ∧
    (∀ f : CompareFields, laid 0x55 (.compare f) ([f.space] ++ bytes3 f.address ++ [f.cardStep, f.width] ++
      bytes3 f.offset ++ [f.memoryStep] ++ bytes4 f.count ++ [f.condition] ++ bytes2 f.mask)) ∧
    (∀ d, laid 0x56 (.delay d) (bytes4 d)) ∧ (∀ g t, laid 0x57 (.await g t) ([g] ++ bytes2 t)) ∧
    ∀ d, laid 0x58 (.slotReset d) (bytes2 d)) ∧
  let n1 (n : Nat) : Byte := BitVec.ofNat 8 n
  let n2 (n : Nat) : List Byte := bytes2 (BitVec.ofNat 16 n)
  let n3 (n : Nat) : List Byte := bytes3 (BitVec.ofNat 24 n)
  let n4 (n : Nat) : List Byte := bytes4 (BitVec.ofNat 32 n)
  let flag (b : Bool) : Byte := if b then 1 else 0
  let flags (a b c : Bool) : Byte := flag a ||| flag b <<< 1 ||| flag c <<< 2
  let reading (r : Reading) : List Byte :=
    match r with | .value v => [0] ++ bytes2 v | .fault k => [statusByte k.status, 0, 0]
  let failAt (f : Option FailRecord) : List Byte :=
    match f with
    | some ⟨_, some (sp, a), part⟩ => [1, spaceByte sp] ++ bytes3 (BitVec.ofInt 24 a) ++ [flag part]
    | some ⟨_, none, part⟩ => [0, 0, 0, 0, 0, flag part]
    | none => [0, 0, 0, 0, 0, 0]
  let run (p : Progress) : List Byte := n4 p.done ++ n3 p.card ++ bytes4 (BitVec.ofInt 32 p.mem)
  ((∀ r : Reply, Message.bytes (.reply r) =
      n2 (6 + r.body.layout.length) ++ [r.kind, statusByte r.status] ++ bytes2 r.tag ++ r.body.layout) ∧
    ∀ n : Notice, Message.bytes (.notice n) =
      n2 (6 + n.body.bytes.length) ++ [0x7F, n.source.byte] ++ n2 n.occurrences ++ n.body.bytes) ∧
  ([Status.ok, .badKind, .badLength, .badField, .queueFull, .duplicateTag, .busy, .state, .notFound, .tooLate, .overlap,
      .windowBlocked, .writeProtected, .readyTimeout, .channelCheck, .range, .dmaAddress, .timeout, .cancelled,
      .flushed].map statusByte =
      [0x00, 0x01, 0x02, 0x03, 0x04, 0x05, 0x06, 0x07, 0x08, 0x09, 0x0A, 0x10, 0x11, 0x12, 0x13, 0x14, 0x15, 0x17, 0x18,
        0x19] ∧
    [FaultKind.windowBlocked, .writeProtected, .readyTimeout, .channelCheck, .range, .dmaAddress, .timeout].map
      (fun k => faultByte (some k)) = [0x10, 0x11, 0x12, 0x13, 0x14, 0x15, 0x17] ∧ faultByte none = 0x00 ∧
    (∀ n : Fin 8, (Source.line n).byte = n1 n) ∧ (∀ n : Fin 4, (Source.channel n).byte = n1 (8 + n.val)) ∧
    [Source.watch, .check, .refresh].map Source.byte = [0x0C, 0x0D, 0x0E] ∧
    [Space.memory, .io].map spaceByte = [0, 1] ∧
    [WindowOwner.baseMemory, .card, .blocked].map WindowOwner.byte = [0, 1, 2] ∧
    [WidthAttr.narrow, .wide, .sense].map WidthAttr.byte = [0, 1, 2] ∧
    [ChannelState.off, .idle, .ready, .moving, .waiting, .master, .heldOff, .faulted].map ChannelState.byte =
      [0, 1, 2, 3, 4, 5, 6, 7] ∧
    [Reason.blockDone, .fault, .overstay].map Reason.byte = [0, 1, 2] ∧
    [LineState.disabled, .idle, .pending, .acting, .inService, .faulted].map LineState.byte = [0, 1, 2, 3, 4, 5] ∧
    [WatchState.stopped, .armed, .scanning, .resting].map WatchState.byte = [0, 1, 2, 3] ∧
    [SubState.waitBus, .inCycle, .waitTime, .waitEvent].map SubState.byte = [0, 1, 2, 3]) ∧
  (ReplyBody.layout .none = [] ∧ (∀ l, (ReplyBody.bytes l).layout = l) ∧
    (∀ p late, (ReplyBody.refresh p late).layout = n1 p :: n2 late) ∧
    (∀ st, (ReplyBody.channelState st).layout = [st.byte]) ∧ (∀ st, (ReplyBody.lineState st).layout = [st.byte]) ∧
    (∀ st, (ReplyBody.watchState st).layout = [st.byte]) ∧ (∀ b, (ReplyBody.placed b).layout = [flag b]) ∧
    (ReplyBody.pause none).layout = [0, 0, 0, 0] ∧
    (∀ tag b, (ReplyBody.pause (some (tag, b))).layout = [1] ++ bytes2 tag ++ [flag b]) ∧
    (∀ n, (ReplyBody.flushed n).layout = [n1 n]) ∧ (∀ b, (ReplyBody.cancel b).layout = [flag b]) ∧
    (∀ w : Vector (Option Window) 16, (ReplyBody.windows w).layout.length = 208 ∧
      (ReplyBody.windows w).layout = w.toList.flatMap fun o =>
        match o with
        | none => [0, 0, 0, 0, 0, 0, 0, 0, 0, 0, 0, 0, 0]
        | some w => [1, spaceByte w.space] ++ n3 w.base ++ n3 w.limit ++
            [w.owner.byte, w.width.byte, n1 w.waitCount, n1 w.readyTimeout, flag w.writeProtect]) ∧
    (∀ st count snap, (ReplyBody.watchRead st count snap).layout.length = 38 ∧
      (ReplyBody.watchRead st count snap).layout = [st.byte] ++ bytes4 count ++ [flag snap.isSome] ++
        (snap.getD (Vector.replicate 8 none)).toList.flatMap fun o =>
          match o with | some r => 1 :: reading r | none => [0, 0, 0, 0]) ∧
    (∀ r : StatusReport, (ReplyBody.status r).layout.length = 62 ∧
      (ReplyBody.status r).layout = [flags r.paused r.halted false, n1 r.entries] ++
        (match r.active with
        | none => List.replicate 15 0
        | some a => [1] ++ bytes2 a.tag ++ [a.subState.byte] ++ run a.progress) ++
        (r.channels.toList.flatMap fun c =>
          [c.state.byte, flags c.overrun c.starved c.protectHit] ++ n2 c.blocksDone ++ [faultByte c.fault]) ++
        (r.lines.toList.flatMap fun l => [l.state.byte, flag l.again]) ++
        [r.watch.byte] ++ bytes4 r.passCount ++ [n1 r.period] ++ n2 r.late ++ [flag r.sfault])) ∧
  ((∀ e : Entry, (ReplyBody.entry e).layout =
      run e.progress ++ [faultByte (e.fail.map fun f => f.kind)] ++ failAt e.fail ++ resultBytes e.op.kind e.result) ∧
    (∀ g : Gathered,
      resultBytes 0x50 g = (match g.values with | some (v, _) => [1] ++ bytes2 v | none => [0, 0, 0]) ∧
      resultBytes 0x52 g = (match g.values with | some (a, b) => [1] ++ bytes2 a ++ bytes2 b | none => [0, 0, 0, 0, 0]) ∧
      resultBytes 0x53 g = g.data ∧
      resultBytes 0x54 g = flags g.matched g.exhausted false ::
        (match g.values with | some (v, _) => [1] ++ bytes2 v | none => [0, 0, 0]) ∧
      resultBytes 0x55 g = flags g.matched g.exhausted false ::
        (match g.values with | some (a, b) => [1] ++ bytes2 a ++ bytes2 b | none => [0, 0, 0, 0, 0]) ∧
      ∀ k ∈ [0x51, 0x56, 0x57, 0x58], resultBytes k g = []) ∧
    (∀ c, (Op.read c).kind = 0x50) ∧ (∀ c v, (Op.write c v).kind = 0x51) ∧ (∀ c x o, (Op.modify c x o).kind = 0x52) ∧
    (∀ d c st n side, (Op.transfer d c st n side).kind = 0x53) ∧
    (∀ c st n cond o m i cap, (Op.scan c st n cond o m i cap).kind = 0x54) ∧
    (∀ c st off ms n cond m, (Op.compare c st off ms n cond m).kind = 0x55) ∧ (∀ d, (Op.delay d).kind = 0x56) ∧
    (∀ src ms, (Op.await src ms).kind = 0x57) ∧ ∀ d, (Op.slotReset d).kind = 0x58) ∧
  (∀ n edges lost, (NoticeBody.line ⟨n, edges, .none, none, lost⟩).bytes =
      [n1 n, n1 edges, 0xFF, flag lost, 0, 0, 0, 0, 0, 0]) ∧
  (∀ n edges (st : Option FailRecord) (r : RunResult) lost,
    (NoticeBody.line ⟨n, edges, match st with | some f => .failed f | none => .ok, some r, lost⟩).bytes =
      [n1 n, n1 edges, faultByte (st.map fun f => f.kind), flag lost] ++ failAt st ++
        [r.kind] ++ run r.progress ++ resultBytes r.kind r.result) ∧
  (∀ b : ChannelBody, (NoticeBody.channel b).bytes = [n1 b.channel, b.reason.byte] ++ n2 b.blocksDone ++
      [b.state.byte, flags b.overrun b.starved b.protectHit, faultByte b.fault] ++ n4 b.remaining) ∧
  (∀ b : WatchBody, ∃ set : Byte, (∀ i : Fin 8, set.getLsbD i = b.changed[i.val]) ∧
      ∃ unheld : Fin 8 → List Byte, (∀ i, (unheld i).length = 3) ∧
        (NoticeBody.watch b).bytes = bytes4 b.passCount ++ [set] ++ (List.finRange 8).flatMap fun i =>
          if b.changed[i.val] then (match b.values[i.val] with | some r => reading r | none => unheld i) else []) ∧
  (∀ r : CycleRecord, (NoticeBody.check r).bytes = [spaceByte r.space] ++ n3 r.address ++
      (match r.owner with
      | .none => [0, 0, 0]
      | .queue tag => [1] ++ bytes2 tag
      | .line n => [2] ++ n2 n
      | .channel n => [3] ++ n2 n
      | .watch => [4, 0, 0])) ∧
  ∀ late, (NoticeBody.refresh late).bytes = n2 late

/-- REPORT_TRANSFER_COMPLETE: the pipe goes FREE and one message is taken: the READY reply; else the reply of the oldest
entry when it has finished, the entry leaving the queue; else the head notice; else nothing. A CHANNEL notice takes what it
carried out of its channel's record. Then the transfers that wait in the request pipe are taken one after another while
the slot is EMPTY, each taking giving the report pipe its next message, until one holds the slot; a transfer is taken
from the pipe as one that arrives. The status of a finished entry: DONE is OK, FAILED that of its fail kind, CANCELLED 0x18,
FLUSHED 0x19. -/
def Obligations.ReportPipeTakesInOrder : Prop :=
  (∀ s : State, s.link.state = .configured → s.link.pipe = [] →
    (∀ r, s.link.slot = .ready r →
      exec .reportTransferComplete s =
        .next (s.setLink { s.link with slot := .empty, report := .sending (.reply r) })) ∧
    ((∀ r, s.link.slot ≠ .ready r) →
      (∀ e es, s.queue.entries = e :: es → e.isFinished = true →
        exec .reportTransferComplete s =
          .next ((s.setQueue { s.queue with entries := es }).setLink
            { s.link with report := .sending (.reply ⟨e.op.kind ||| 0x80, e.status, e.tag, .entry e⟩) })) ∧
      ((∀ e ∈ s.queue.entries.head?, e.isFinished = false) →
        (s.notices = [] → exec .reportTransferComplete s = .next (s.setLink { s.link with report := .free })) ∧
        (∀ n ns, s.notices = n :: ns → (∀ b, n.body ≠ .channel b) →
          exec .reportTransferComplete s =
            .next ((s.setNotices ns).setLink { s.link with report := .sending (.notice n) })) ∧
        ∀ n ns b, s.notices = n :: ns → n.body = .channel b →
          exec .reportTransferComplete s =
            .next (((s.setNotices ns).setChannel b.channel { s.channel b.channel with
              blocksDone := (s.channel b.channel).blocksDone - b.blocksDone
              overrun := (s.channel b.channel).overrun && !b.overrun
              protectHit := (s.channel b.channel).protectHit && !b.protectHit }).setLink
                { s.link with report := .sending (.notice n) })))) ∧
  (∀ s : State, s.link.state = .configured →
    exec .reportTransferComplete s =
      .next (State.drain s.link.pipe (State.takeMessage (s.setLink { s.link with report := .free })))) ∧
  (∀ s : State, s.link.state = .configured → s.link.report = .free →
    (∀ r, s.link.slot = .ready r →
      s.takeMessage = s.setLink { s.link with slot := .empty, report := .sending (.reply r) }) ∧
    ((∀ r, s.link.slot ≠ .ready r) →
      (∀ e es, s.queue.entries = e :: es → e.isFinished = true →
        s.takeMessage = (s.setQueue { s.queue with entries := es }).setLink
          { s.link with report := .sending (.reply ⟨e.op.kind ||| 0x80, e.status, e.tag, .entry e⟩) }) ∧
      ((∀ e ∈ s.queue.entries.head?, e.isFinished = false) →
        (s.notices = [] → s.takeMessage = s) ∧
        (∀ n ns, s.notices = n :: ns → (∀ b, n.body ≠ .channel b) →
          s.takeMessage = (s.setNotices ns).setLink { s.link with report := .sending (.notice n) }) ∧
        ∀ n ns b, s.notices = n :: ns → n.body = .channel b →
          s.takeMessage = ((s.setNotices ns).setChannel b.channel { s.channel b.channel with
            blocksDone := (s.channel b.channel).blocksDone - b.blocksDone
            overrun := (s.channel b.channel).overrun && !b.overrun
            protectHit := (s.channel b.channel).protectHit && !b.protectHit }).setLink
              { s.link with report := .sending (.notice n) }))) ∧
  (∀ s : State, (∀ m, s.link.report = .sending m → s.takeMessage = s) ∧ (s.link.state = .detached → s.takeMessage = s)) ∧
  (∀ s : State, State.drain [] s = s.setLink { s.link with pipe := [] } ∧
    ∀ f fs,
      (s.link.slot = .empty → State.drain (f :: fs) s = State.drain fs (s.takeFramed f).takeMessage) ∧
      (s.link.slot ≠ .empty → State.drain (f :: fs) s = s.setLink { s.link with pipe := f :: fs })) ∧
  (∀ (i : Instr) (r : HostRequest) (s : State), i.request? = some r → s.link.state = .configured → s.link.pipe = [] →
    exec i s = .next (State.drain [.request r] s)) ∧
  (∀ (l : List Byte) (s : State), s.link.state = .configured → s.link.pipe = [] →
    exec (.requestRefusedAtFraming l) s = .next (State.drain [frame l] s)) ∧
  ∀ e : Entry,
    (e.state = .done → e.status = .ok ∧ statusByte e.status = 0x00) ∧
    (∀ f, e.state = .failed → e.fail = some f → statusByte e.status = faultByte (some f.kind) ∧ e.status =
      match f.kind with
      | .windowBlocked => .windowBlocked
      | .writeProtected => .writeProtected
      | .readyTimeout => .readyTimeout
      | .channelCheck => .channelCheck
      | .range => .range
      | .dmaAddress => .dmaAddress
      | .timeout => .timeout) ∧
    (e.state = .cancelled → e.status = .cancelled ∧ statusByte e.status = 0x18) ∧
    (e.state = .flushed → e.status = .flushed ∧ statusByte e.status = 0x19)

/-! ## Requests about the part -/

/-- IDENTIFY: the reply is OK with the fields of R168, laid out little-endian. -/
def Obligations.IdentifyAnswers : Prop :=
  (∀ (tag : Word) (s : State), s.Listening →
    exec (.identify tag []) s = .next (s.replied ⟨0x81, .ok, tag, .identify⟩)) ∧
  ReplyBody.layout .identify = bytes2 0xB016 ++ [1] ++ bytes4 1048576 ++ [16, 4, 8, 8, 32, 15]

/-- STATUS_GET: the reply carries each field as it stands, and forming it changes nothing but the slot or the pipe. The
sub-state of an entry: WAIT_EVENT for an Await; WAIT_TIME for a Delay, a SlotReset, or an element kind with its interval timer
running; IN_CYCLE when its element has its group on the bus or its unit in the turn; WAIT_BUS otherwise (R52). -/
def Obligations.StatusGetReportsTheState : Prop :=
  (∀ (tag : Word) (s : State), s.Listening → ∃ r : StatusReport,
    exec (.statusGet tag []) s = .next (s.replied ⟨0x82, .ok, tag, .status r⟩) ∧
    r.paused = s.queue.paused ∧ r.halted = s.queue.halted ∧ r.entries = s.queue.entries.length ∧
    (s.queue.active = none → r.active = none) ∧
    (∀ e, s.queue.active = some e → r.active = some ⟨e.tag, s.subState e, e.progress⟩) ∧
    (∀ n : Fin 4, r.channels[n.val] = ⟨(s.channel n).state, (s.channel n).overrun, (s.channel n).starved,
      (s.channel n).protectHit, (s.channel n).blocksDone, (s.channel n).fault⟩) ∧
    (∀ n : Fin 8, r.lines[n.val] = ⟨(s.line n).state, (s.line n).again⟩) ∧
    r.watch = s.watch.state ∧ r.passCount = s.watch.passCount ∧ r.period = s.refresh.period ∧
    r.late = s.refresh.late ∧ r.sfault = s.sfault) ∧
  ∀ (s : State) (e : Entry),
    let running := ∃ el, s.engine.element = some el ∧ el.item = .entry ∧
      ((∃ g, s.bus.group = some g ∧ g.user = .engine) ∨ ∃ u, s.port.turn = some u ∧ u.requester = .engine)
    (∀ src ms, e.op = .await src ms → s.subState e = .waitEvent) ∧
    (∀ d, e.op = .delay d ∨ e.op = .slotReset d → s.subState e = .waitTime) ∧
    ((∀ src ms, e.op ≠ .await src ms) → (∀ d, e.op ≠ .delay d ∧ e.op ≠ .slotReset d) →
      (e.timer ≠ none → s.subState e = .waitTime) ∧
      (e.timer = none → running → s.subState e = .inCycle) ∧
      (e.timer = none → ¬ running → s.subState e = .waitBus))

/-! ## The window table -/

/-- WINDOW_SET: BAD_FIELD when a field is out of range, OVERLAP when an address lies in the range of another entry of
the space, otherwise the entry holds the supplied fields. -/
def Obligations.WindowSetChecksAndStores : Prop :=
  ∀ (tag : Word) (f : WindowFields) (s : State), s.Listening →
    ((∀ n w, ¬ f.Asks n w) →
      exec (.windowSet tag f []) s = .next (s.replied ⟨0x90, .badField, tag, .none⟩)) ∧
    ∀ n w, f.Asks n w →
      ((∃ (m : Fin 16) (w' : Window), m ≠ n ∧ s.windows[m.val] = some w' ∧ w'.space = w.space ∧
          w'.base ≤ w.limit ∧ w.base ≤ w'.limit) →
        exec (.windowSet tag f []) s = .next (s.replied ⟨0x90, .overlap, tag, .none⟩)) ∧
      ((∀ (m : Fin 16) (w' : Window), m ≠ n → s.windows[m.val] = some w' → w'.space = w.space →
          w.limit < w'.base ∨ w'.limit < w.base) →
        exec (.windowSet tag f []) s =
          .next ((s.setWindows (s.windows.set n.val (some w))).replied ⟨0x90, .ok, tag, .none⟩))

/-- WINDOW_CLEAR and WINDOW_LIST: a number outside 0-15 is refused; otherwise the entry is invalid after, the addresses
it covered take the default attributes, and the list shows all sixteen entries as they stand. -/
def Obligations.WindowClearAndList : Prop :=
  ∀ (tag : Word) (s : State), s.Listening →
    (∀ e : Byte, 16 ≤ e.toNat →
      exec (.windowClear tag e []) s = .next (s.replied ⟨0x91, .badField, tag, .none⟩)) ∧
    (∀ (e : Byte) (n : Fin 16), e.toNat = n →
      exec (.windowClear tag e []) s =
        .next ((s.setWindows (s.windows.set n.val none)).replied ⟨0x91, .ok, tag, .none⟩)) ∧
    (∀ (n : Fin 16), s.windows[n.val] = none → s.windows.set n.val none = s.windows) ∧
    (∀ (n : Fin 16) (w : Window) (a : Nat), windowsOk s.windows → s.windows[n.val] = some w → w.base ≤ a →
      a ≤ w.limit → lookup (s.windows.set n.val none) w.space a = ⟨.card, .narrow, 1, 16, false⟩) ∧
    exec (.windowList tag []) s = .next (s.replied ⟨0x92, .ok, tag, .windows s.windows⟩)

/-- The lookup finds the attributes of the one valid entry of the space that contains the address, and the default
attributes where there is none. -/
def Obligations.LookupFindsTheWindow : Prop :=
  (∀ (ws : Vector (Option Window) 16) (n : Fin 16) (w : Window) (a : Nat), windowsOk ws → ws[n.val] = some w →
    w.base ≤ a → a ≤ w.limit → lookup ws w.space a = ⟨w.owner, w.width, w.waitCount, w.readyTimeout, w.writeProtect⟩) ∧
  ∀ (ws : Vector (Option Window) 16) (sp : Space) (a : Nat),
    (∀ (n : Fin 16) (w : Window), ws[n.val] = some w → w.space = sp → a < w.base ∨ w.limit < a) →
    lookup ws sp a = ⟨.card, .narrow, 1, 16, false⟩

/-- The checks of an element of the engine or of the watch unit, in the order of the table; the checks at the start of a
DMA element, in order: the offset lies in a BASE_MEMORY window, the second byte inside base memory, a store not in a
write-protected window. The memory side of a Transfer to or from base memory, of a Scan with a capture and of a Compare
is checked after the card side: RANGE outside base memory, WRITE_PROTECTED for a store into a protected window. An element
that passes is planned at the card pointer with the attributes found there: an OUT Transfer fetches first, an IN one and a
capture store after, a Compare fetches after. -/
def Obligations.ChecksAtAnElementsStart : Prop :=
  (∀ (at' : Attrs) (isWrite : Bool) (a : Nat) (w : Width),
      (at'.owner = .blocked → checkElement at' isWrite a w = some .windowBlocked) ∧
      (at'.owner ≠ .blocked → at'.writeProtect = true → isWrite = true →
        checkElement at' isWrite a w = some .writeProtected) ∧
      (at'.owner = .baseMemory → at'.writeProtect = false ∨ isWrite = false →
        checkElement at' isWrite a w = if 0xFFFFF < a + w.bytes - 1 then some .range else none) ∧
      (at'.owner = .card → at'.writeProtect = false ∨ isWrite = false → checkElement at' isWrite a w = none)) ∧
  (∀ (ws : Vector (Option Window) 16) (c : ChannelConfig) (b : Block),
      let at' := lookup ws .memory b.offset.toNat
      (b.offset < 0 ∨ 0xFFFFF < b.offset → dmaRefusal ws c b = some .dmaAddress) ∧
      (0 ≤ b.offset → b.offset ≤ 0xFFFFF →
        (at'.owner ≠ .baseMemory → dmaRefusal ws c b = some .dmaAddress) ∧
        (at'.owner = .baseMemory →
          (c.width = .two → b.offset = 0xFFFFF → dmaRefusal ws c b = some .range) ∧
          (c.width = .one ∨ b.offset ≠ 0xFFFFF →
            dmaRefusal ws c b =
              if c.direction = .cardToMemory ∧ at'.writeProtect = true then some .writeProtected else none)))) ∧
  (∀ (ws : Vector (Option Window) 16) (store : Bool) (w : Width) (off : Int),
    let at' := lookup ws .memory off.toNat
    (off < 0 ∨ 0xFFFFF < off + w.bytes - 1 → checkMemory ws store w off = some ⟨.range, some (.memory, off), false⟩) ∧
    (0 ≤ off → off + w.bytes - 1 ≤ 0xFFFFF →
      checkMemory ws store w off =
        if store = true ∧ at'.owner = .baseMemory ∧ at'.writeProtect = true then
          some ⟨.writeProtected, some (.memory, off), false⟩
        else none)) ∧
  ∀ (ws : Vector (Option Window) 16) (item : WorkItem) (owner : CycleOwner) (p : Progress) (k : CardSide),
    let at' := lookup ws k.space p.card
    let plan (o : ElementOp) (after : AfterPart) (stage : Stage) (memory : Option FailRecord) : Option Plan :=
      some (match checkElement at' (match o with | .read => false | .write _ => true | .modify _ _ => true) p.card k.width,
          memory with
        | some f, _ => .refuse ⟨f, some (k.space, (p.card : Int)), false⟩
        | none, some r => .refuse r
        | none, none => .start ⟨item, owner, k.space, p.card, k.width, at', o, after, stage, 0⟩)
    let next (op : Op) := planElement ws item owner op p
    next (.read k) = plan .read .nothing .card none ∧
    (∀ v, next (.write k v) = plan (.write v) .nothing .card none) ∧
    (∀ x o, next (.modify k x o) = plan (.modify x o) .nothing .card none) ∧
    (∀ st n off ms, next (.transfer .into k st n (.base off ms)) =
      plan .read (.store p.mem.toNat) .card (checkMemory ws true k.width p.mem)) ∧
    (∀ st n d, next (.transfer .into k st n (.inline d)) = plan .read .nothing .card none) ∧
    (∀ st n off ms, next (.transfer .out k st n (.base off ms)) =
      plan (.write 0) .nothing (.memoryFirst p.mem.toNat) (checkMemory ws false k.width p.mem)) ∧
    (∀ st n d, next (.transfer .out k st n (.inline d)) = plan (.write (match k.width with
      | .one => (d.getD p.mem.toNat 0).setWidth 16
      | .two => d.getD (p.mem.toNat + 1) 0 ++ d.getD p.mem.toNat 0)) .nothing .card none) ∧
    (∀ st n cond o m i, next (.scan k st n cond o m i none) = plan .read .nothing .card none) ∧
    (∀ st n cond o m i cap, next (.scan k st n cond o m i (some cap)) =
      plan .read (.store p.mem.toNat) .card (checkMemory ws true k.width p.mem)) ∧
    (∀ st off ms n cond m, next (.compare k st off ms n cond m) =
      plan .read (.fetch p.mem.toNat) .card (checkMemory ws false k.width p.mem)) ∧
    (∀ d, next (.delay d) = none) ∧ (∀ src ms, next (.await src ms) = none) ∧ ∀ d, next (.slotReset d) = none

/-- The window table changes by WINDOW_SET, WINDOW_CLEAR, PART_RESET and POWER_ON only, when no transfer waits in the
request pipe (a transfer given as refused at framing may be one of the former, log 18). -/
def Obligations.WindowsFrame : Prop :=
  ∀ (c : Instr) (s t : State), exec c s = .next t → s.link.pipe = [] → (∀ tag f d, c ≠ .windowSet tag f d) →
    (∀ tag e d, c ≠ .windowClear tag e d) → (∀ tag d, c ≠ .partReset tag d) → (∀ a b d, c ≠ .powerOn a b d) →
    (∀ l, c ≠ .requestRefusedAtFraming l) → t.windows = s.windows

/-! ## Base memory -/

/-- MEMORY_READ, MEMORY_WRITE, MEMORY_FILL within base memory: the slot goes WORKING and the request's units wait at
the port, which chooses. With a length or a range that base memory does not have they are refused, reading and writing
nothing. -/
def Obligations.MemoryRequestsBeginOrAreRefused : Prop :=
  (∀ (tag : Word) (s : State), s.Listening →
      (∀ (o : BitVec 24) (n : Word), 1 ≤ n.toNat → n.toNat ≤ 1024 → o.toNat + n.toNat ≤ 0x100000 →
        exec (.memoryRead tag o n []) s = .next (State.settleLink
          ((s.setSlot (.working .memory 0x18 tag)).setPort
            (Port.choose { s.port with link := some ⟨.read [], o.toNat, o.toNat + n.toNat⟩ })))) ∧
      (∀ (o : BitVec 24) (d : List Byte), 1 ≤ d.length → d.length ≤ 1024 → o.toNat + d.length ≤ 0x100000 →
        exec (.memoryWrite tag o d) s = .next (State.settleLink
          ((s.setSlot (.working .memory 0x19 tag)).setPort
            (Port.choose { s.port with link := some ⟨.write d, o.toNat, o.toNat + d.length⟩ })))) ∧
      ∀ (o n : BitVec 24) (p : Byte), 1 ≤ n.toNat → n.toNat ≤ 1048576 → o.toNat + n.toNat ≤ 0x100000 →
        exec (.memoryFill tag o n p []) s = .next (State.settleLink
          ((s.setSlot (.working .memory 0x1A tag)).setPort
            (Port.choose { s.port with link := some ⟨.fill p, o.toNat, o.toNat + n.toNat⟩ })))) ∧
  (∀ (tag : Word) (s : State), s.Listening →
      (∀ (o : BitVec 24) (n : Word), n = 0 ∨ 1024 < n.toNat ∨ 0xFFFFF < o.toNat ∨ 0xFFFFF < o.toNat + n.toNat - 1 →
        exec (.memoryRead tag o n []) s = .next (s.replied ⟨0x98, .badField, tag, .none⟩)) ∧
      (∀ (o : BitVec 24) (d : List Byte), d.length ≤ 1091 → d = [] ∨ 1024 < d.length ∨ 0xFFFFF < o.toNat ∨
          0xFFFFF < o.toNat + d.length - 1 →
        exec (.memoryWrite tag o d) s = .next (s.replied ⟨0x99, .badField, tag, .none⟩)) ∧
      ∀ (o n : BitVec 24) (p : Byte), n = 0 ∨ 1048576 < n.toNat ∨ 0xFFFFF < o.toNat ∨ 0xFFFFF < o.toNat + n.toNat - 1 →
        exec (.memoryFill tag o n p []) s = .next (s.replied ⟨0x9A, .badField, tag, .none⟩))

/-- MEMORY_TURN_END by the requester of the unit: the stored bytes are in base memory, the turn is over, and the
requester goes on. The engine: a fetched value becomes the value to be written and the card part is due; the card part in a
BASE_MEMORY window is followed by its store or its fetch, or ends the element; the memory part that comes last ends it. Whether
the unit that follows is there when the port chooses is a free order while a WATCH unit waits (log 6). A watch read that was
discarded leaves nothing, and reaches a WatchStop that waits. A link-side request is served in units of two bytes at an even
offset when both lie in its range, else of one; a read gathers its bytes and replies them, a write uses its up, and a write or
a fill replies no body. -/
def Obligations.MemoryTurnEndServes : Prop :=
  (∀ (s : State) (u : MemUnit), s.port.turn = some u →
    let x := (s.setMem (u.serve s.mem).1).setPort { s.port with turn := none }
    let v := s.mem.readUnit u.offset u.width
    (∀ n, u.requester = .dmaStore n ∨ u.requester = .orphan → exec .memoryTurnEnd s = .next x.settle) ∧
    (∀ n c, u.requester = .dmaRead n → s.bus.cycle = some c → c.kind = .dma n → c.needsUnit = true →
      exec .memoryTurnEnd s = .next (x.setCycle (some { c with drive := v, needsUnit := false })).settle) ∧
    (∀ m, u.requester = .masterRead → s.bus.master = some m → m.answer = .readWait →
      exec .memoryTurnEnd s = .next (x.setMaster (some { m with answer := .readServed v })).settle) ∧
    (∀ m, u.requester = .masterStore → s.bus.master = some m → m.answer = .writeWait →
      exec .memoryTurnEnd s = .next (x.setMaster (some { m with answer := .writeStored })).settle) ∧
    (∀ r, u.requester = .watch → s.watch.read = some r → r.discard = false → s.watch.stopping = false →
      exec .memoryTurnEnd s = .next (x.setWatch { s.watch with
        read := none, pass := s.watch.pass.set r.slot.val (some (.value v)), next := r.slot.val + 1 }).settle) ∧
    (∀ j, u.requester = .link → s.port.link = some j → j.next + j.width.bytes < j.stop →
      exec .memoryTurnEnd s =
        .next (x.setPort { s.port with turn := none, link := some (j.advance v) }).settle) ∧
    (∀ j kind tag, u.requester = .link → s.port.link = some j → j.stop ≤ j.next + j.width.bytes →
      s.link.slot = .working .memory kind tag →
      exec .memoryTurnEnd s = .next (State.settle
        ((x.setPort { s.port with turn := none, link := none }).setSlot
          (.ready ⟨kind ||| 0x80, .ok, tag, (j.advance v).work.replyBody⟩)))) ∧
    (∀ e, u.requester = .engine → s.port.watch = none → s.engine.element = some e → e.stage = .card →
      e.item = .entry → e.after = .nothing →
      exec .memoryTurnEnd s = .next (State.settle
        ((x.setElement none).mapActive fun en => en.boundary v (u.serve s.mem).2.2))) ∧
    (u.requester = .engine →
      (s.port.watch = none → exec .memoryTurnEnd s = .next (x.engineUnitServed v (u.serve s.mem).2.2).settle) ∧
      (s.port.watch ≠ none →
        let y := x.setFree (s.free + 1)
        exec .memoryTurnEnd s = .next (State.settle (State.engineUnitServed
          (if Config.freeOrder s.free then y else y.setPort y.port.choose) v (u.serve s.mem).2.2)))) ∧
    (∀ r, u.requester = .watch → s.watch.read = some r → s.watch.stopping = false → r.discard = true →
      exec .memoryTurnEnd s = .next (x.setWatch { s.watch with read := none }).settle) ∧
    ∀ r, u.requester = .watch → s.watch.read = some r → s.watch.stopping = true →
      let y := x.setWatch { s.watch with
        state := .stopped, stopping := false, rest := none, pass := Vector.replicate 8 none, next := 0, read := none }
      (∀ kind tag, s.link.slot = .working .watchStop kind tag →
        exec .memoryTurnEnd s = .next (y.readied (kind ||| 0x80) tag (.watchState .stopped)).settle) ∧
      ((∀ kind tag, s.link.slot ≠ .working .watchStop kind tag) → exec .memoryTurnEnd s = .next y.settle)) ∧
  (∀ (s : State) (e : Element) (v1 v2 : Word), s.engine.element = some e →
    let e' : Element := { e with op := .write v1, stage := .card }
    let last : State := s.setElement (some { e with stage := .memoryLast, value := v1 })
    let due (t : State) (off : Nat) (op : UnitOp) : State :=
      t.setPort { s.port with engine := some ⟨.engine, off, e.width, op⟩ }
    (∀ off, e.stage = .memoryFirst off →
      (e.attrs.owner = .baseMemory → s.engineUnitServed v1 v2 = due (s.setElement (some e')) e.address (.write v1)) ∧
      (e.attrs.owner ≠ .baseMemory → s.engineUnitServed v1 v2 = s.setElement (some e'))) ∧
    (e.stage = .card →
      (e.after = .nothing → s.engineUnitServed v1 v2 = s.elementBoundary e v1 v2) ∧
      (∀ off, e.after = .store off → s.engineUnitServed v1 v2 = due last off (.write v1)) ∧
      (∀ off, e.after = .fetch off → s.engineUnitServed v1 v2 = due last off .read)) ∧
    (e.stage = .memoryLast →
      (∀ off, e.after = .fetch off → s.engineUnitServed v1 v2 = s.elementBoundary e e.value v1) ∧
      ((∀ off, e.after ≠ .fetch off) → s.engineUnitServed v1 v2 = s.elementBoundary e e.value 0))) ∧
  ∀ j : LinkJob,
    j.width = (if j.next % 2 = 0 ∧ j.next + 1 < j.stop then .two else .one) ∧
    (j.unit.requester = .link ∧ j.unit.offset = j.next ∧ j.unit.width = j.width) ∧
    (∀ v, (j.advance v).next = j.next + j.width.bytes ∧ (j.advance v).stop = j.stop) ∧
    (∀ g, j.work = .read g → j.unit.op = .read ∧ ∀ v, (j.advance v).work = .read (g ++
      match j.width with | .one => [v.extractLsb' 0 8] | .two => [v.extractLsb' 0 8, v.extractLsb' 8 8])) ∧
    (∀ b0 b1 rest, j.work = .write (b0 :: b1 :: rest) → j.width = .two →
      j.unit.op = .write (b1 ++ b0) ∧ ∀ v, (j.advance v).work = .write rest) ∧
    (∀ b0 rest, j.work = .write (b0 :: rest) → j.width = .one →
      j.unit.op = .write (b0.setWidth 16) ∧ ∀ v, (j.advance v).work = .write rest) ∧
    (∀ b, j.work = .fill b → j.unit.op = .write (b ++ b) ∧ ∀ v, (j.advance v).work = .fill b) ∧
    (∀ g, (LinkWork.read g).replyBody = .bytes g) ∧ (∀ l, (LinkWork.write l).replyBody = .none) ∧
    ∀ b, (LinkWork.fill b).replyBody = .none

/-- Serving a unit: a read leaves memory as it is; a write stores the low byte at the offset and, of a two-byte unit,
the high byte above it; a Modify writes the new value formed from the old one. The port's choice while no turn runs: the
side not served last when both sides wait; on the slot side BUS units oldest first, then ENGINE, then WATCH. -/
def Obligations.PortChoosesAndServes : Prop :=
  ((∀ (r : Requester) (o : Nat) (w : Width) (m : Mem),
      (MemUnit.serve ⟨r, o, w, .read⟩ m).1 = m ∧
      (MemUnit.serve ⟨r, o, .one, .read⟩ m).2.1 = (m.get o).setWidth 16 ∧
      (MemUnit.serve ⟨r, o, .two, .read⟩ m).2.1 = m.get (o + 1) ++ m.get o) ∧
    (∀ (r : Requester) (o : Nat) (w : Width) (v : Word) (m : Mem), m.wf = true →
      let m' := (MemUnit.serve ⟨r, o, w, .write v⟩ m).1
      m'.get o = v.extractLsb' 0 8 ∧ (w = .two → m'.get (o + 1) = v.extractLsb' 8 8) ∧
        ∀ a, a < o ∨ o + w.bytes ≤ a → m'.get a = m.get a) ∧
    ∀ (r : Requester) (o : Nat) (w : Width) (x y : Word) (m : Mem),
      MemUnit.serve ⟨r, o, w, .modify x y⟩ m =
        (m.writeUnit o w (((m.readUnit o w &&& x) ||| y) &&& w.mask), m.readUnit o w,
          ((m.readUnit o w &&& x) ||| y) &&& w.mask)) ∧
  (∀ p : Port, p.turn = none →
      (∀ u us, p.bus = u :: us → p.link = none ∨ p.last = .link →
        p.choose = { p with bus := us, turn := some u, last := .slot }) ∧
      (∀ u, p.bus = [] → p.engine = some u → p.link = none ∨ p.last = .link →
        p.choose = { p with engine := none, turn := some u, last := .slot }) ∧
      (∀ u, p.bus = [] → p.engine = none → p.watch = some u → p.link = none ∨ p.last = .link →
        p.choose = { p with watch := none, turn := some u, last := .slot }) ∧
      (∀ j, p.link = some j → p.last = .slot ∨ (p.bus = [] ∧ p.engine = none ∧ p.watch = none) →
        p.choose = { p with turn := some j.unit, last := .link }) ∧
      (p.bus = [] → p.engine = none → p.watch = none → p.link = none → p.choose = p))

/-- Base memory changes by MEMORY_TURN_END and START_UP_FILL_DONE only; MEMORY_TURN_END changes no byte outside the
unit of the turn, and none at all when that unit reads or there is no turn. That POWER_ON leaves it as it was until the fill
is log 7 (the model's choice), and that a second START_UP_FILL_DONE changes nothing is log 3. -/
def Obligations.MemoryFrame : Prop :=
  (∀ (c : Instr) (s t : State), exec c s = .next t → c ≠ .memoryTurnEnd → c ≠ .startUpFillDone → t.mem = s.mem) ∧
  (∀ s t : State, exec .memoryTurnEnd s = .next t →
    (s.port.turn = none → t.mem = s.mem) ∧
    ∀ u, s.port.turn = some u → (u.op = .read → t.mem = s.mem) ∧
      ∀ a, a < u.offset ∨ u.offset + u.width.bytes ≤ a → t.mem.get a = s.mem.get a) ∧
  ∀ s t : State, exec .startUpFillDone s = .next t →
    (s.link.filled = true → t.mem = s.mem) ∧ (s.link.filled = false → ∀ a, t.mem.get a = 0)

/-! ## Refresh -/

/-- REFRESH_SET: a period of 4-255 restarts the timer and keeps the pending flag, 0 stops it and clears the flag, the
clear-late flag clears the late count; the reply carries the period now in force and the count before clearing. A period
of 1-3 or another clear-late flag is refused. -/
def Obligations.RefreshSetSetsTheGenerator : Prop :=
  ∀ (tag : Word) (p c : Byte) (s : State), s.Listening →
    ((1 ≤ p.toNat ∧ p.toNat ≤ 3) ∨ 2 ≤ c.toNat →
      exec (.refreshSet tag p c []) s = .next (s.replied ⟨0xA0, .badField, tag, .none⟩)) ∧
    (4 ≤ p.toNat → c.toNat ≤ 1 →
      exec (.refreshSet tag p c []) s = .next (State.replied
        (s.setRefresh ⟨p.toNat, some p.toNat, s.refresh.pending, s.refresh.row, if c = 1 then 0 else s.refresh.late⟩)
        ⟨0xA0, .ok, tag, .refresh p.toNat s.refresh.late⟩)) ∧
    (p = 0 → c.toNat ≤ 1 →
      exec (.refreshSet tag p c []) s = .next (State.replied
        (s.setRefresh ⟨0, none, false, s.refresh.row, if c = 1 then 0 else s.refresh.late⟩)
        ⟨0xA0, .ok, tag, .refresh 0 s.refresh.late⟩))

/-- REFRESH_TIMER_EXPIRY: the flag becomes set; an expiry with the flag set counts a late refresh, up to 65535, and
posts the count; the timer restarts with the period in force. A stopped timer does not expire
(log 3). -/
def Obligations.RefreshTimerExpires : Prop :=
  ∀ s : State,
    (s.refresh.timer = none → exec .refreshTimerExpiry s = .next s.settle) ∧
    (s.refresh.timer ≠ none → s.refresh.pending = false →
      exec .refreshTimerExpiry s =
        .next (s.setRefresh { s.refresh with timer := some s.refresh.period, pending := true }).settle) ∧
    (s.refresh.timer ≠ none → s.refresh.pending = true →
      let late := min (s.refresh.late + 1) 65535
      exec .refreshTimerExpiry s = .next (State.settle
        ((s.setRefresh { s.refresh with timer := some s.refresh.period, late := late }).setNotices
          (postTo s.notices .refresh (.refresh late)))))

/-! ## Channels -/

/-- CHANNEL_SET: BAD_FIELD, BUSY in MOVING and MASTER, otherwise a fresh record with the new configuration: OFF when
disabled, WAITING when a cascade channel's SREQ is asserted with SRESET released (log 11), else IDLE, starved when
SREQ is asserted without cascade (log 21). -/
def Obligations.ChannelSetReplacesTheRecord : Prop :=
  ∀ (tag : Word) (f : ChannelFields) (s : State), s.Listening →
    ((∀ n c, ¬ f.Asks n c) →
      exec (.channelSet tag f []) s = .next (s.replied ⟨0xA8, .badField, tag, .none⟩)) ∧
    ∀ n cfg, f.Asks n cfg →
      ((s.channel n).state = .moving ∨ (s.channel n).state = .master →
        exec (.channelSet tag f []) s = .next (s.replied ⟨0xA8, .busy, tag, .none⟩)) ∧
      ((s.channel n).state ≠ .moving → (s.channel n).state ≠ .master →
        let sreq := (s.channel n).sreq
        let st : ChannelState :=
          if cfg.enable = false then .off
          else if cfg.mode = .cascade ∧ sreq = true ∧ s.sreset = .released then .waiting else .idle
        let starved := cfg.enable && sreq && decide (cfg.mode ≠ .cascade)
        exec (.channelSet tag f []) s = .next (State.settle
          ((s.setChannel n
            ⟨cfg, none, none, st, 0, false, starved, false, none, none, sreq, false, false⟩).readied
              0xA8 tag (.channelState st))))

/-- CHANNEL_STAGE: BAD_FIELD; STATE when OFF, FAULTED or CASCADE; otherwise placed CURRENT, placed STAGED, or BUSY by
the slots it finds. -/
def Obligations.ChannelStagePlacesTheBlock : Prop :=
  ∀ (tag : Word) (f : StageFields) (s : State), s.Listening →
    ((∀ n b, ¬ f.Asks n b) →
      exec (.channelStage tag f []) s = .next (s.replied ⟨0xA9, .badField, tag, .none⟩)) ∧
    ∀ n b, f.Asks n b →
      let c := s.channel n
      (c.state = .off ∨ c.state = .faulted ∨ c.config.mode = .cascade →
        exec (.channelStage tag f []) s = .next (s.replied ⟨0xA9, .state, tag, .none⟩)) ∧
      (c.state ≠ .off → c.state ≠ .faulted → c.config.mode ≠ .cascade →
        (c.current = none →
          exec (.channelStage tag f []) s = .next (State.settle
            ((s.setChannel n { c with
              current := some b, starved := false, state := if c.state = .idle then .ready else c.state }).readied
                0xA9 tag (.placed false)))) ∧
        (c.current ≠ none → c.staged = none →
          exec (.channelStage tag f []) s =
            .next ((s.setChannel n { c with staged := some b }).replied ⟨0xA9, .ok, tag, .placed true⟩)) ∧
        (c.current ≠ none → c.staged ≠ none →
          exec (.channelStage tag f []) s = .next (s.replied ⟨0xA9, .busy, tag, .none⟩)))

/-- CHANNEL_QUIESCE: a number outside 0-3 is refused; a channel that is neither MOVING nor MASTER is cleared at once and
the reply carries the state reached; a MOVING channel holds the slot WORKING until its boundary; a MASTER channel goes
to HELD_OFF with its grant withdrawn, through HANDBACK when the master's strobe is asserted; without the strobe the
master's cycle is over and a read unit of it that waits is dropped, which is log 12. -/
def Obligations.ChannelQuiesceStops : Prop :=
  ∀ (tag : Word) (b : Byte) (s : State), s.Listening →
    (4 ≤ b.toNat → exec (.channelQuiesce tag b []) s = .next (s.replied ⟨0xAA, .badField, tag, .none⟩)) ∧
    ∀ n : Fin 4, b.toNat = n →
      let c := s.channel n
      let stopped (st : ChannelState) (timer : Option Nat) : Channel :=
        ⟨c.config, none, none, st, 0, false, false, false, none, timer, c.sreq, false, false⟩
      (∀ st : ChannelState,
        (c.state = .off ∧ st = .off) ∨ ((c.state = .idle ∨ c.state = .ready ∨ c.state = .faulted) ∧ st = .idle) ∨
          (c.state = .waiting ∧ st = (if c.sreq then .heldOff else .idle)) ∨ (c.state = .heldOff ∧ st = .heldOff) →
        exec (.channelQuiesce tag b []) s =
          .next ((s.setChannel n (stopped st c.tenureTimer)).readied 0xAA tag (.channelState st)).settle) ∧
      (c.state = .moving →
        exec (.channelQuiesce tag b []) s = .next (State.settle
          ((s.setChannel n { c with quiescing := true }).setSlot (.working (.quiesce n) 0x2A tag)))) ∧
      (c.state = .master → s.bus.master = none →
        exec (.channelQuiesce tag b []) s = .next (State.settle
          (((s.setArbiter .idle).setChannel n (stopped .heldOff none)).readied 0xAA tag (.channelState .heldOff)))) ∧
      (∀ m, c.state = .master → s.bus.master = some m → m.strobe = true →
        exec (.channelQuiesce tag b []) s = .next (State.settle
          (((s.setArbiter (.handback n)).setChannel n (stopped .heldOff none)).readied 0xAA tag
            (.channelState .heldOff)))) ∧
      (∀ m, c.state = .master → s.bus.master = some m → m.strobe = false →
        exec (.channelQuiesce tag b []) s = .next (State.settle
          (((s.dropMaster.setArbiter .idle).setChannel n (stopped .heldOff none)).readied 0xAA tag
            (.channelState .heldOff))))

/-- Terminal count: blocks done counted up to 65535, `overrun` set when a CHANNEL notice of the channel waits, the staged
block handed over, or the block reloaded, or the channel left IDLE with none, by staging and end mode. After a handover the
tenure goes on, MOVING, in BLOCK mode, and in DEMAND mode while SREQ is asserted, unless a quiesce or an assertion of SRESET has
been taken; otherwise READY. BLOCK_DONE is posted with the record as it then stands, and an Await of the channel ends. -/
def Obligations.TerminalCountSettlesTheSlots : Prop :=
  (∀ (s : State) (n : Fin 4) (b : Block),
    let c := s.channel n
    let t := s.terminalCount n b
    (t.channel n).blocksDone = min (c.blocksDone + 1) 65535 ∧
    (t.channel n).overrun = (c.overrun || s.notices.any fun k => k.source == .channel n) ∧
    (∀ k, c.staged = some k → (t.channel n).current = some k ∧ (t.channel n).staged = none ∧
      ((t.channel n).state = .moving ∨ (t.channel n).state = .ready)) ∧
    (c.staged = none → c.config.endMode = .reload →
      (t.channel n).current = some { b with done := 0, offset := b.original } ∧ (t.channel n).state = .ready) ∧
    (c.staged = none → c.config.endMode = .once → (t.channel n).current = none ∧ (t.channel n).state = .idle) ∧
    (t.channel n).config = c.config ∧ (∀ m, m ≠ n → t.channel m = s.channel m) ∧ t.mem = s.mem) ∧
  ∀ (s : State) (n : Fin 4) (b : Block),
    let c := s.channel n
    let lost := c.overrun || s.notices.any fun k => k.source == .channel n
    let goesOn := !c.quiescing && !c.stopped && (c.config.mode == .block || (c.config.mode == .demand && c.sreq))
    let counted := min (c.blocksDone + 1) 65535
    let posted (c' : Channel) (remaining : Nat) : State :=
      ((s.setChannel n c').setNotices (postTo s.notices (.channel n) (.channel
        ⟨n, .blockDone, counted, c'.state, lost, c.starved, c.protectHit, none, remaining⟩))).deliver (.channel n)
    (∀ k, c.staged = some k → s.terminalCount n b = posted { c with
      current := some k, staged := none, state := if goesOn then .moving else .ready, blocksDone := counted
      overrun := lost } (k.count - k.done)) ∧
    (c.staged = none → c.config.endMode = .reload → s.terminalCount n b = posted { c with
      current := some { b with done := 0, offset := b.original }, state := .ready, blocksDone := counted
      overrun := lost } b.count) ∧
    (c.staged = none → c.config.endMode = .once → s.terminalCount n b = posted { c with
      current := none, state := .idle, blocksDone := counted, overrun := lost } 0)

/-- SREQ_ASSERT is seen by the channel: a cascade channel that is IDLE goes to WAITING with SRESET released, an IDLE channel
of another mode becomes starved, and no other state is changed by the level; SREQ_DEASSERT takes a WAITING or HELD_OFF channel to
IDLE and ends a cascade tenure, through HANDBACK when the master's strobe is asserted. CASCADE_TENURE_EXPIRY in MASTER with
the timer running: SGNT withdrawn, HELD_OFF, OVERSTAY posted with that state (log 10); otherwise it has no effect of its own
(log 3). What becomes of the units of a master whose grant is withdrawn is log 12. -/
def Obligations.SreqAndTenureReachTheChannel : Prop :=
  (∀ (n : Fin 4) (s : State),
      let c := s.channel n
      exec (.sreqAssert n) s = .next (s.setChannel n { c with sreq := true }).settle ∧
      (c.state = .waiting ∨ c.state = .heldOff →
        exec (.sreqDeassert n) s = .next (s.setChannel n { c with sreq := false, state := .idle }).settle) ∧
      (c.state = .off ∨ c.state = .idle ∨ c.state = .ready ∨ c.state = .moving ∨ c.state = .faulted →
        exec (.sreqDeassert n) s = .next (s.setChannel n { c with sreq := false }).settle) ∧
      (c.state = .master → s.bus.master = none →
        exec (.sreqDeassert n) s = .next (State.settle
          ((s.setArbiter .idle).setChannel n { c with sreq := false, tenureTimer := none, state := .idle }))) ∧
      ∀ m, c.state = .master → s.bus.master = some m →
        exec (.sreqDeassert n) s = .next (State.settle
          ((if m.strobe then s.setArbiter (.handback n) else s.dropMaster.setArbiter .idle).setChannel n
            { c with sreq := false, tenureTimer := none, state := .idle }))) ∧
  (∀ (n : Fin 4) (s : State),
      let c := s.channel n
      (c.state ≠ .master ∨ c.tenureTimer = none → exec (.cascadeTenureExpiry n) s = .next s.settle) ∧
      (c.state = .master → c.tenureTimer ≠ none →
        let x : State :=
          match s.bus.master with
          | none => s.setArbiter .idle
          | some m => if m.strobe then s.setArbiter (.handback n) else s.dropMaster.setArbiter .idle
        exec (.cascadeTenureExpiry n) s = .next (State.settle
          ((x.setChannel n { c with state := .heldOff, tenureTimer := none }).setNotices
            (postTo s.notices (.channel n)
              (.channel ⟨n, .overstay, c.blocksDone, .heldOff, c.overrun, c.starved, c.protectHit, none,
                match c.current with | some b => b.count - b.done | none => 0⟩)))))) ∧
  (∀ (s : State) (n : Fin 4),
      let c := s.channel n
      (c.state ≠ .idle ∨ c.sreq = false → s.channelLevel n = s) ∧
      (c.state = .idle → c.sreq = true →
        (c.config.mode ≠ .cascade → s.channelLevel n = s.setChannel n { c with starved := true }) ∧
        (c.config.mode = .cascade → s.sreset = .released →
          s.channelLevel n = s.setChannel n { c with state := .waiting }) ∧
        (c.config.mode = .cascade → s.sreset ≠ .released → s.channelLevel n = s))) ∧
  ∀ s : State, s.channelLevels = (((s.channelLevel 0).channelLevel 1).channelLevel 2).channelLevel 3 ∧
    ∀ n, s.channelLevels.channel n = (s.channelLevel n).channel n

/-! ## Lines -/

/-- LINE_SET: BAD_FIELD, BUSY in ACTING, otherwise the configuration is replaced and the service status reset, the
remembered level kept; a LEVEL line whose SINT is asserted with SRESET released takes its event at once: PENDING with
an action, else its notice. -/
def Obligations.LineSetReplacesTheRecord : Prop :=
  ∀ (tag : Word) (f : LineFields) (data : List Byte) (s : State), s.Listening →
    HostRequest.wf ⟨tag, .lineSet f, data⟩ = true →
    ((∀ n c, ¬ f.Asks data n c) →
      exec (.lineSet tag f data) s = .next (s.replied ⟨0xB0, .badField, tag, .none⟩)) ∧
    ∀ n c, f.Asks data n c →
      let l := s.line n
      let fresh (st : LineState) (edges : Nat) : Line :=
        ⟨c.role, c.mode, c.service, c.action, st, false, edges, l.level, ⟨0, 0, 0⟩, Gathered.empty, none⟩
      let event := c.role = .interrupt ∧ c.mode = .level ∧ l.level = true ∧ s.sreset = .released
      (l.state = .acting → exec (.lineSet tag f data) s = .next (s.replied ⟨0xB0, .busy, tag, .none⟩)) ∧
      (l.state ≠ .acting →
        (¬ event → exec (.lineSet tag f data) s = .next (State.settle
          ((s.setLine n (fresh (if c.role = .disabled then .disabled else .idle) 0)).readied 0xB0 tag .none))) ∧
        (event → c.action ≠ none → exec (.lineSet tag f data) s =
          .next ((s.setLine n (fresh .pending 1)).readied 0xB0 tag .none).settle) ∧
        (event → c.action = none → exec (.lineSet tag f data) s = .next (State.settle
          ((((s.setLine n (fresh .inService 0)).setNotices
            (postTo s.notices (.line n) (.line ⟨n, 1, .none, none, false⟩))).deliver (.line n)).readied
              0xB0 tag .none))))

/-- LINE_END: refused but in IN_SERVICE and FAULTED. The line returns to IDLE, or to PENDING when `again` is set or a
LEVEL line is still asserted (an event, with SRESET released); a line without an action posts its notice instead. The
reply carries the state reached. -/
def Obligations.LineEndReleases : Prop :=
  ∀ (tag : Word) (b : Byte) (s : State), s.Listening →
    (8 ≤ b.toNat → exec (.lineEnd tag b []) s = .next (s.replied ⟨0xB1, .badField, tag, .none⟩)) ∧
    ∀ n : Fin 8, b.toNat = n →
      let l := s.line n
      let event := l.mode = .level ∧ l.level = true ∧ s.sreset = .released
      let edges := if l.mode = .level ∧ l.level = true ∧ s.sreset = .released then min 255 (l.edges + 1) else l.edges
      (l.state ≠ .inService → l.state ≠ .faulted →
        exec (.lineEnd tag b []) s = .next (s.replied ⟨0xB1, .state, tag, .none⟩)) ∧
      (l.state = .inService ∨ l.state = .faulted →
        (l.again = false → ¬ event →
          exec (.lineEnd tag b []) s =
            .next ((s.setLine n { l with state := .idle }).readied 0xB1 tag (.lineState .idle)).settle) ∧
        (l.again = true ∨ event → l.action ≠ none →
          exec (.lineEnd tag b []) s = .next (State.settle
            ((s.setLine n { l with again := false, edges := edges, state := .pending }).readied 0xB1 tag
              (.lineState .pending)))) ∧
        (l.again = true ∨ event → l.action = none →
          let st : LineState := match l.service with | .hold => .inService | .auto => .idle
          exec (.lineEnd tag b []) s = .next (State.settle
            ((((s.setLine n { l with again := false, edges := 0, state := st }).setNotices
              (postTo s.notices (.line n) (.line ⟨n, edges, .none, none, false⟩))).deliver (.line n)).readied
                0xB1 tag (.lineState st)))))

/-- SINT_RISE is taken by the line's role, mode-independently when it is an edge, and moves the remembered level;
SINT_FALL moves the level alone. While SRESET is asserted, or a part reset runs (log 9), only the level moves. -/
def Obligations.SintEdgesByRole : Prop :=
  ∀ (n : Fin 8) (s : State),
    let l := s.line n
    exec (.sintFall n) s = .next (s.setLine n { l with level := false }) ∧
    (l.level = true → exec (.sintRise n) s = .next s.settle) ∧
    (l.level = false → s.sreset ≠ .released ∨ s.link.resetting = true ∨ l.role = .disabled →
      exec (.sintRise n) s = .next (s.setLine n { l with level := true }).settle) ∧
    (l.level = false → s.sreset = .released → s.link.resetting = false →
      (l.role = .trigger → s.watch.trigger = some n ∧ s.watch.state ≠ .stopped →
        exec (.sintRise n) s = .next (s.setLine n { l with level := true }).watchBegin.settle) ∧
      (l.role = .trigger → s.watch.trigger ≠ some n ∨ s.watch.state = .stopped →
        exec (.sintRise n) s = .next (s.setLine n { l with level := true }).settle) ∧
      (l.role = .interrupt →
        (l.state = .idle → l.action ≠ none →
          exec (.sintRise n) s =
            .next (s.setLine n { l with level := true, edges := min 255 (l.edges + 1), state := .pending }).settle) ∧
        (l.state = .idle → l.action = none →
          exec (.sintRise n) s = .next (State.settle
            (((s.setLine n { l with
                level := true, edges := 0
                state := match l.service with | .hold => .inService | .auto => .idle }).setNotices
              (postTo s.notices (.line n)
                (.line ⟨n, min 255 (l.edges + 1), .none, none, false⟩))).deliver (.line n)))) ∧
        (l.state = .pending ∨ l.state = .acting ∨ l.state = .inService ∨ l.state = .faulted →
          exec (.sintRise n) s =
            .next (s.setLine n { l with level := true, edges := min 255 (l.edges + 1), again := true }).settle)))

/-! ## The watch unit -/

/-- WATCH_SET: BAD_FIELD, BUSY when not STOPPED, STATE when the named line is no TRIGGER; otherwise settings and slots
replaced, no snapshot, pass count 0, ARMED for a SINGLE watch with a trigger and a valid slot, else STOPPED. -/
def Obligations.WatchSetReplacesTheSettings : Prop :=
  ∀ (tag : Word) (f : WatchFields) (s : State), s.Listening →
    ((∀ c, ¬ f.Asks c) → exec (.watchSet tag f []) s = .next (s.replied ⟨0xB8, .badField, tag, .none⟩)) ∧
    ∀ c, f.Asks c →
      (s.watch.state ≠ .stopped →
        exec (.watchSet tag f []) s = .next (s.replied ⟨0xB8, .busy, tag, .none⟩)) ∧
      (s.watch.state = .stopped → (∃ n, c.trigger = some n ∧ (s.line n).role ≠ .trigger) →
        exec (.watchSet tag f []) s = .next (s.replied ⟨0xB8, .state, tag, .none⟩)) ∧
      (s.watch.state = .stopped → (∀ n, c.trigger = some n → (s.line n).role = .trigger) →
        ∀ st : WatchState,
          ((c.mode = .single ∧ c.trigger ≠ none ∧ ∃ i : Fin 8, c.slots[i.val] ≠ none) → st = .armed) →
          ((c.mode = .cyclic ∨ c.trigger = none ∨ ∀ i : Fin 8, c.slots[i.val] = none) → st = .stopped) →
          exec (.watchSet tag f []) s = .next (State.replied
            (s.setWatch { s.watch with
              slots := c.slots, mode := c.mode, interval := c.interval, trigger := c.trigger, snapshot := none
              passCount := 0, state := st })
            ⟨0xB8, .ok, tag, .watchState st⟩))

/-- WATCH_START: refused without a valid slot; otherwise SCANNING from the first valid entry, a waiting read withdrawn
and a running one discarded. WATCH_REST_EXPIRY starts a pass in RESTING alone, and has no effect of its own elsewhere or
with no rest timer running (log 3). SCANNING with no read in flight and SRESET released, the unit starts the read of its
next valid entry, or completes the pass when none is left, after which the engine chooses (R65); a read that its checks
refuse is recorded as that fault, one in a CARD window claims the bus, one in a BASE_MEMORY window is a unit at the port. A read
is running when the WATCH group is on the bus or the WATCH unit has the turn. At a release of SRESET the unit starts reads the
same way, without completing a pass (log 16). -/
def Obligations.WatchStartBeginsAPass : Prop :=
  (∀ (tag : Word) (s : State),
    let begun : State := s.abandonRead.setWatch { s.abandonRead.watch with
      pass := readingsNone, next := 0, state := .scanning, rest := none }
    (s.Listening →
      ((∀ i : Fin 8, s.watch.slots[i.val] = none) →
        exec (.watchStart tag []) s = .next (s.replied ⟨0xB9, .state, tag, .none⟩)) ∧
      ((∃ i : Fin 8, s.watch.slots[i.val] ≠ none) →
        exec (.watchStart tag []) s = .next (begun.readied 0xB9 tag (.watchState .scanning)).settle)) ∧
    s.watchBegin = begun ∧
    (s.watchReadRunning = true ↔
      (∃ g, s.bus.group = some g ∧ g.user = .watch) ∨ ∃ u, s.port.turn = some u ∧ u.requester = .watch) ∧
    (s.watch.state = .resting → s.watch.rest ≠ none → exec .watchRestExpiry s = .next begun.settle) ∧
    (s.watch.state ≠ .resting ∨ s.watch.rest = none → exec .watchRestExpiry s = .next s.settle) ∧
    (s.watch.read = none → s.abandonRead = s) ∧
    (∀ r, s.watch.read = some r → s.watchReadRunning = false →
      s.abandonRead = (s.setWatch { s.watch with read := none }).setPort { s.port with watch := none }) ∧
    ∀ r, s.watch.read = some r → s.watchReadRunning = true →
      s.abandonRead = s.setWatch { s.watch with read := some { r with discard := true } }) ∧
  (∀ (k : Nat) (s : State),
    (s.watch.state ≠ .scanning ∨ s.watch.read ≠ none ∨ s.sreset ≠ .released → State.watchContinue (k + 1) s = s) ∧
    (s.watch.state = .scanning → s.watch.read = none → s.sreset = .released →
      (∀ i e, s.watch.slots[i.val] = some e → s.watch.next ≤ i.val →
        (∀ j : Fin 8, j < i → s.watch.next ≤ j.val → s.watch.slots[j.val] = none) →
        State.watchContinue (k + 1) s = State.watchContinue k (s.watchStartRead i e)) ∧
      ((∀ j : Fin 8, s.watch.next ≤ j.val → s.watch.slots[j.val] = none) →
        State.watchContinue (k + 1) s = State.watchContinue k (State.engineChoose 24 s.watchComplete)))) ∧
  (∀ (k : Nat) (s : State),
    State.watchReads 0 s = s ∧
    (s.watch.state ≠ .scanning ∨ s.watch.read ≠ none ∨ s.sreset ≠ .released → State.watchReads (k + 1) s = s) ∧
    (s.watch.state = .scanning → s.watch.read = none → s.sreset = .released →
      (∀ i e, s.watch.slots[i.val] = some e → s.watch.next ≤ i.val →
        (∀ j : Fin 8, j < i → s.watch.next ≤ j.val → s.watch.slots[j.val] = none) →
        State.watchReads (k + 1) s = State.watchReads k (s.watchStartRead i e)) ∧
      ((∀ j : Fin 8, s.watch.next ≤ j.val → s.watch.slots[j.val] = none) → State.watchReads (k + 1) s = s))) ∧
  ∀ (s : State) (i : Fin 8) (e : WatchEntry),
    let at' := lookup s.windows e.space e.address
    let started : State := s.setWatch { s.watch with read := some ⟨i, e.space, e.address, e.width, at', false⟩ }
    (∀ k, checkElement at' false e.address e.width = some k →
      s.watchStartRead i e = s.setWatch { s.watch with
        pass := s.watch.pass.set i.val (some (.fault k)), next := i.val + 1 }) ∧
    (checkElement at' false e.address e.width = none →
      (at'.owner = .baseMemory → s.watchStartRead i e =
        started.setPort { s.port with watch := some ⟨.watch, e.address, e.width, .read⟩ }) ∧
      (at'.owner ≠ .baseMemory → s.watchStartRead i e = started))

/-- WATCH_STOP: STOPPED at once, or when the read that is granted or being served ends; the snapshot and the pass count
stay. -/
def Obligations.WatchStopStops : Prop :=
  ∀ (tag : Word) (s : State), s.Listening →
    let stop (w : Watch) : Watch :=
      { w with state := .stopped, stopping := false, rest := none, pass := readingsNone, next := 0 }
    (s.watch.state ≠ .scanning ∨ s.watch.read = none →
      exec (.watchStop tag []) s = .next ((s.setWatch (stop s.watch)).readied 0xBA tag (.watchState .stopped)).settle) ∧
    (∀ r, s.watch.state = .scanning → s.watch.read = some r → s.watchReadRunning = false →
      exec (.watchStop tag []) s = .next (State.settle
        (((s.setWatch { stop s.watch with read := none }).setPort { s.port with watch := none }).readied
          0xBA tag (.watchState .stopped)))) ∧
    ∀ r, s.watch.state = .scanning → s.watch.read = some r → s.watchReadRunning = true →
      exec (.watchStop tag []) s = .next (State.settleLink
        ((s.setWatch { s.watch with
          read := some { r with discard := true }, pass := readingsNone, next := 0, stopping := true }).setSlot
            (.working .watchStop 0x3A tag)))

/-- WATCH_READ: the state, the pass count and the snapshot as they stand. -/
def Obligations.WatchReadReportsTheSnapshot : Prop :=
  ∀ (tag : Word) (s : State), s.Listening →
    exec (.watchRead tag []) s =
      .next (s.replied ⟨0xBB, .ok, tag, .watchRead s.watch.state s.watch.passCount s.watch.snapshot⟩)

/-- A pass completes: the snapshot is the pass, the count one more, ARMED or STOPPED after a SINGLE pass, SCANNING or
RESTING after a CYCLIC one; the notice carries the changed entries whose report flag is set, and none is posted when
there is none; an ACTIVE Await of the watch unit ends DONE, and no other entry changes. -/
def Obligations.WatchPassCompletes : Prop :=
  ∀ s : State,
    let t := s.watchComplete
    t.watch.snapshot = some s.watch.pass ∧ t.watch.passCount = s.watch.passCount + 1 ∧
    (s.watch.mode = .single → t.watch.state = if s.watch.trigger = none then .stopped else .armed) ∧
    (s.watch.mode = .cyclic → s.watch.interval = 0 → t.watch.state = .scanning) ∧
    (s.watch.mode = .cyclic → s.watch.interval ≠ 0 →
      t.watch.state = .resting ∧ t.watch.rest = some s.watch.interval) ∧
    ((∀ i, s.watch.entryReported i = false) → t.notices = s.notices) ∧
    ((∃ i, s.watch.entryReported i = true) →
      t.notices = postTo s.notices .watch
        (.watch ⟨s.watch.passCount + 1, Vector.ofFn fun i => s.watch.entryReported i, s.watch.pass⟩)) ∧
    (∀ e ms, s.queue.active = some e → e.op = .await .watch ms →
      t.queue = s.queue.mapActive fun e => { e with state := .done, timer := none }) ∧
    ((∀ e ms, s.queue.active = some e → e.op ≠ .await .watch ms) → t.queue = s.queue)

/-- An entry is changed when the snapshot is absent or holds nothing for it, when the two values differ in a bit of the
change mask, when one is a value and the other a fault kind, or when the fault kinds differ. It is reported when it is
changed and its report flag is set. -/
def Obligations.WatchEntryChanged : Prop :=
  (∀ mask now, readingChanged mask none now = true) ∧
  (∀ mask a b, readingChanged mask (some (.value a)) (some (.value b)) = true ↔
    ∃ i, mask.getLsbD i = true ∧ a.getLsbD i ≠ b.getLsbD i) ∧
  (∀ mask a k, readingChanged mask (some (.value a)) (some (.fault k)) = true ∧
    readingChanged mask (some (.fault k)) (some (.value a)) = true) ∧
  (∀ mask k k', readingChanged mask (some (.fault k)) (some (.fault k')) = true ↔ k ≠ k') ∧
  ∀ (w : Watch) (i : Fin 8) (e : WatchEntry), w.slots[i.val] = some e →
    (w.snapshot = none → w.entryChanged i = true) ∧
    (∀ sn : Vector (Option Reading) 8, w.snapshot = some sn →
      w.entryChanged i = readingChanged e.mask sn[i.val] w.pass[i.val]) ∧
    w.entryReported i = (w.entryChanged i && e.report)

/-! ## The request queue -/

/-- QUEUE_PAUSE sets `paused` and reports the ACTIVE entry, with whether it has an element started; QUEUE_RESUME clears
both flags. QUEUE_FLUSH: every QUEUED entry is FLUSHED, `halted` is cleared, the reply carries how many; the ACTIVE and
the finished entries stay as they are. -/
def Obligations.QueuePauseResumeFlush : Prop :=
  (∀ (tag : Word) (s : State), s.Listening →
      ((∀ e ∈ s.queue.entries, e.state ≠ .active) →
        exec (.queuePause tag []) s =
          .next ((s.setQueue { s.queue with paused := true }).replied ⟨0xC0, .ok, tag, .pause none⟩)) ∧
      (∀ e, s.queue.active = some e →
        ∀ started : Bool, (started = true ↔ ∃ el, s.engine.element = some el ∧ el.item = .entry) →
          exec (.queuePause tag []) s = .next (State.replied
            (s.setQueue { s.queue with paused := true }) ⟨0xC0, .ok, tag, .pause (some (e.tag, started))⟩)) ∧
      exec (.queueResume tag []) s =
        .next ((s.setQueue { s.queue with paused := false, halted := false }).readied 0xC1 tag .none).settle) ∧
  (∀ (tag : Word) (s : State), s.Listening →
      exec (.queueFlush tag []) s = .next (State.settle
        ((s.setQueue { s.queue with
          entries := s.queue.entries.map fun e => if e.state = .queued then { e with state := .flushed } else e
          halted := false }).readied 0xC2 tag
            (.flushed (s.queue.entries.countP fun e => e.state == .queued)))))

/-- QUEUE_CANCEL of a tag: NOT_FOUND, TOO_LATE, a QUEUED entry CANCELLED at once; an ACTIVE entry whose mark is set already is
unchanged; of any other ACTIVE entry the mark is set, and it is CANCELLED at once in a wait or with no element started, SRESET
released with a SlotReset, else at its boundary. The release is a grant point:
before the engine chooses its next work, whatever that is, channels with SREQ asserted claim, a SCANNING watch unit starts
its read, and an IDLE arbiter and a free port take what waits (the order among blocks is log 16). -/
def Obligations.QueueCancelByState : Prop :=
  ∀ (tag target : Word) (s : State), s.Listening →
    ((∀ e ∈ s.queue.entries, e.tag ≠ target) →
      exec (.queueCancel tag target []) s = .next (s.replied ⟨0xC3, .notFound, tag, .none⟩)) ∧
    ∀ e, s.queue.entries.find? (fun e => e.tag == target) = some e →
      let started := ∃ el, s.engine.element = some el ∧ el.item = .entry
      let ended : State := s.mapActive fun e => { e with cancel := true, state := .cancelled, timer := none }
      (e.isFinished = true →
        exec (.queueCancel tag target []) s = .next (s.replied ⟨0xC3, .tooLate, tag, .none⟩)) ∧
      (e.state = .queued →
        exec (.queueCancel tag target []) s = .next (State.settle
          ((s.setQueue { s.queue with
            entries := s.queue.entries.map fun e => if e.tag = target then { e with state := .cancelled } else e
            }).readied 0xC3 tag (.cancel false)))) ∧
      (e.state = .active → e.cancel = true →
        exec (.queueCancel tag target []) s = .next (s.readied 0xC3 tag (.cancel true)).settle) ∧
      (e.state = .active → e.cancel = false → e.timer = none → started →
        exec (.queueCancel tag target []) s =
          .next ((s.mapActive fun e => { e with cancel := true }).readied 0xC3 tag (.cancel true)).settle) ∧
      (e.state = .active → e.cancel = false → e.timer ≠ none ∨ ¬ started → (∀ d, e.op ≠ .slotReset d) →
        exec (.queueCancel tag target []) s = .next (ended.readied 0xC3 tag (.cancel true)).settle) ∧
      (∀ d, e.state = .active → e.cancel = false → e.timer ≠ none ∨ ¬ started → e.op = .slotReset d →
        exec (.queueCancel tag target []) s = .next (State.settle
          ((State.watchReads 8 (ended.setSreset .released).linesLevelRule.channelLevels).arbitrate.portChoose.readied
            0xC3 tag (.cancel true))))

/-- The admission checks of the queued requests (READ, WRITE, MODIFY, TRANSFER, SCAN, COMPARE, DELAY, AWAIT, SLOT_RESET)
in their order: BAD_FIELD, DUPLICATE_TAG, QUEUE_FULL; a refused request never enters the queue. -/
def Obligations.AdmissionRefusesInOrder : Prop :=
  ∀ (i : Instr) (tag : Word) (b : RequestBody) (data : List Byte) (s : State),
    i.request? = some ⟨tag, b, data⟩ → HostRequest.wf ⟨tag, b, data⟩ = true → b.queued = true → s.Listening →
    ((∀ op, ¬ b.Asks data op) → exec i s = .next (s.replied ⟨b.kind ||| 0x80, .badField, tag, .none⟩)) ∧
    ∀ op, b.Asks data op →
      ((∃ e ∈ s.queue.entries, e.tag = tag) →
        exec i s = .next (s.replied ⟨b.kind ||| 0x80, .duplicateTag, tag, .none⟩)) ∧
      ((∀ e ∈ s.queue.entries, e.tag ≠ tag) → 32 ≤ s.queue.entries.length →
        exec i s = .next (s.replied ⟨b.kind ||| 0x80, .queueFull, tag, .none⟩))

/-- READ, WRITE, MODIFY, TRANSFER, SCAN, COMPARE, DELAY, AWAIT, SLOT_RESET with every field in range and a tag that the
queue admits: a QUEUED entry of the operation asked for, with zero elements done at the starting addresses, is appended
at the tail. The memory address starts at the offset of a BASE Transfer or a Compare and at the capture offset of a Scan
with capture; it is 0 for the other kinds, as the card address is for a kind without a card side. -/
def Obligations.QueuedRequestsAreAppended : Prop :=
  ∀ (tag : Word) (data : List Byte) (op : Op) (s : State), s.Listening → s.queue.admits tag →
    let accepted : Host.Outcome State Fault Refusal := .next (State.settle (s.setQueue { s.queue with
      entries := s.queue.entries ++ [⟨tag, op, .queued, false, op.start, ⟨none, false, false, []⟩, none, none⟩] }))
    (∀ c, (RequestBody.read c).Asks data op → exec (.read tag c data) s = accepted) ∧
    (∀ c v, (RequestBody.write c v).Asks data op → exec (.write tag c v data) s = accepted) ∧
    (∀ c x o, (RequestBody.modify c x o).Asks data op → exec (.modify tag c x o data) s = accepted) ∧
    (∀ f, (RequestBody.transfer f).Asks data op → exec (.transfer tag f data) s = accepted) ∧
    (∀ f, (RequestBody.scan f).Asks data op → exec (.scan tag f data) s = accepted) ∧
    (∀ f, (RequestBody.compare f).Asks data op → exec (.compare tag f data) s = accepted) ∧
    (∀ d, (RequestBody.delay d).Asks data op → exec (.delay tag d data) s = accepted) ∧
    (∀ g t, (RequestBody.await g t).Asks data op → exec (.await tag g t data) s = accepted) ∧
    (∀ d, (RequestBody.slotReset d).Asks data op → exec (.slotReset tag d data) s = accepted) ∧
    (∀ c v x o, (Op.read c).start = ⟨0, c.address, 0⟩ ∧ (Op.write c v).start = ⟨0, c.address, 0⟩ ∧
      (Op.modify c x o).start = ⟨0, c.address, 0⟩) ∧
    (∀ dir c st n, (∀ off mst, (Op.transfer dir c st n (.base off mst)).start = ⟨0, c.address, off⟩) ∧
      ∀ l, (Op.transfer dir c st n (.inline l)).start = ⟨0, c.address, 0⟩) ∧
    (∀ c st n cond o m i, (∀ cap, (Op.scan c st n cond o m i (some cap)).start = ⟨0, c.address, cap⟩) ∧
      (Op.scan c st n cond o m i none).start = ⟨0, c.address, 0⟩) ∧
    (∀ c st off mst n cond m, (Op.compare c st off mst n cond m).start = ⟨0, c.address, off⟩) ∧
    ∀ d src ms, (Op.delay d).start = ⟨0, 0, 0⟩ ∧ (Op.await src ms).start = ⟨0, 0, 0⟩ ∧ (Op.slotReset d).start = ⟨0, 0, 0⟩

/-- DELAY_EXPIRY, AWAIT_TIMEOUT, SCAN_INTERVAL_EXPIRY, SLOT_RESET_EXPIRY with the wait running: the Delay DONE; the Await
FAILED with TIMEOUT and `halted` set; the Scan on to its next read; the SlotReset DONE and SRESET released, which is a grant
point: before the engine chooses its next entry, be it a further SlotReset, channels with SREQ asserted claim, a SCANNING
watch unit starts its read, and an IDLE arbiter and a free port take what waits (the order among blocks is log 16); the interval of an action in hand ends likewise. With no ACTIVE entry an expiry has no effect of its own (log 3). An event of a line, a
channel or the watch unit ends an ACTIVE Await of that source DONE, its timer stopped, and changes nothing else. -/
def Obligations.WaitsEndAtTheirExpiry : Prop :=
  (∀ (s : State) (e : Entry), s.queue.active = some e → e.timer ≠ none →
      let done : State := s.mapActive fun e => { e with state := .done, timer := none }
      (∀ d, e.op = .delay d → exec .delayExpiry s = .next done.settle) ∧
      (∀ src ms, e.op = .await src ms →
        exec .awaitTimeout s = .next (State.settle (s.setQueue { s.queue with
          entries := s.queue.entries.map fun e =>
            if e.state = .active then { e with state := .failed, timer := none, fail := some ⟨.timeout, none, false⟩ } else e
          halted := true }))) ∧
      (∀ c st n cond o m i cap, e.op = .scan c st n cond o m i cap →
        exec (.scanIntervalExpiry .entry) s = .next (s.mapActive fun e => { e with timer := none }).settle) ∧
      (∀ d, e.op = .slotReset d →
        exec .slotResetExpiry s = .next (State.settle
          (State.watchReads 8 (done.setSreset .released).linesLevelRule.channelLevels).arbitrate.portChoose))) ∧
  ((∀ s : State, s.queue.active = none →
      exec .delayExpiry s = .next s.settle ∧ exec .awaitTimeout s = .next s.settle ∧
      exec (.scanIntervalExpiry .entry) s = .next s.settle ∧ exec .slotResetExpiry s = .next s.settle) ∧
    ∀ (s : State) (n : Fin 8), s.engine.state = .action n →
      exec (.scanIntervalExpiry .action) s = .next (s.setLine n { s.line n with interval := none }).settle) ∧
  ∀ (s : State) (src : AwaitSource),
    (∀ e ms, s.queue.active = some e → e.op = .await src ms →
      s.deliver src = s.setQueue { s.queue with entries := s.queue.entries.map fun e =>
        if e.state = .active then { e with state := .done, timer := none } else e }) ∧
    ((∀ e ms, s.queue.active = some e → e.op ≠ .await src ms) → s.deliver src = s)

/-- What a completed element makes of its entry, the whole record: elements done counted, the card pointer stepped within
its space, the memory pointer of a Transfer, a capture or a Compare stepped, inline IN data appended low byte first, the
values kept; DONE when a Read, Write or Modify has its one element, a Transfer its count, a Scan or Compare a match or its
count; otherwise CANCELLED when marked; otherwise it goes on, a Scan through its interval. By the item: the ACTIVE entry's
record; nothing for the orphan of a link reset; a line action goes on likewise, or succeeds: a notice OK with the result of the
run, IN_SERVICE by HOLD, PENDING by AUTO with `again`, else IDLE. A failed element fails its entry and halts the queue, or
faults its line with a notice of the fail record; an orphan's failure is discarded. -/
def Obligations.BoundaryOfAnEntry : Prop :=
  (∀ (e : Entry) (v1 v2 : Word),
    let x := e.boundary v1 v2
    let done := e.progress.done + 1
    let goesOn (p : Progress) (r : Gathered) (interval : Nat) : Entry :=
      if e.cancel then { e with progress := p, result := r, state := .cancelled }
      else { e with progress := p, result := r, timer := if interval = 0 then none else some interval }
    (∀ c, e.op = .read c → x = { e with
      state := .done, progress := { e.progress with done := 1 }, result := { e.result with values := some (v1, 0) } }) ∧
    (∀ c v, e.op = .write c v → x = { e with state := .done, progress := { e.progress with done := 1 } }) ∧
    (∀ c a o, e.op = .modify c a o → x = { e with
      state := .done, progress := { e.progress with done := 1 }, result := { e.result with values := some (v1, v2) } }) ∧
    (∀ dir c st n side, e.op = .transfer dir c st n side →
      let mem : Int :=
        match side with | .base _ ms => stepMemory ms c.width e.progress.mem | .inline _ => e.progress.mem + c.width.bytes
      let p : Progress := ⟨done, stepCard st c.width c.space e.progress.card, mem⟩
      let r : Gathered :=
        match dir, side, c.width with
        | .into, .inline _, .one => { e.result with data := e.result.data ++ [v1.extractLsb' 0 8] }
        | .into, .inline _, .two => { e.result with data := e.result.data ++ [v1.extractLsb' 0 8, v1.extractLsb' 8 8] }
        | _, _, _ => e.result
      x = if done = n then { e with progress := p, result := r, state := .done } else goesOn p r 0) ∧
    (∀ c st n cond o m i cap, e.op = .scan c st n cond o m i cap →
      let mem : Int := match cap with | some _ => e.progress.mem + c.width.bytes | none => e.progress.mem
      let p : Progress := ⟨done, stepCard st c.width c.space e.progress.card, mem⟩
      let hit := cond.holds c.width v1 o m
      let r : Gathered := { e.result with values := some (v1, 0), matched := hit, exhausted := done == n }
      x = if hit = true ∨ done = n then { e with progress := p, result := r, state := .done } else goesOn p r i) ∧
    (∀ c st off ms n cond m, e.op = .compare c st off ms n cond m →
      let p : Progress := ⟨done, stepCard st c.width c.space e.progress.card, stepMemory ms c.width e.progress.mem⟩
      let hit := cond.holds c.width v1 v2 m
      let r : Gathered := { e.result with values := some (v1, v2), matched := hit, exhausted := done == n }
      x = if hit = true ∨ done = n then { e with progress := p, result := r, state := .done } else goesOn p r 0)) ∧
  (∀ (w : Width) (sp : Space) (a : Nat) (i : Int),
    let size : Nat := match sp with | .memory => 0x1000000 | .io => 0x10000
    stepCard .fixed w sp a = a ∧ stepCard .inc w sp a = (a + w.bytes) % size ∧
    stepCard .dec w sp a = (a + size - w.bytes) % size ∧
    stepMemory .inc w i = i + w.bytes ∧ stepMemory .dec w i = i - w.bytes) ∧
  (∀ (s : State) (e : Element) (v1 v2 : Word),
    let y := s.setElement none
    (e.item = .entry → s.elementBoundary e v1 v2 = y.setQueue { s.queue with
      entries := s.queue.entries.map fun en => if en.state = .active then en.boundary v1 v2 else en }) ∧
    (e.item = .orphan → s.elementBoundary e v1 v2 = s.setEngine ⟨.idle, none⟩) ∧
    ∀ n op, e.item = .line n → (s.line n).action = some op →
      let l := s.line n
      let x := Entry.boundary ⟨0, op, .active, false, l.progress, l.result, none, none⟩ v1 v2
      (x.state = .active → s.elementBoundary e v1 v2 =
        y.setLine n { l with progress := x.progress, result := x.result, interval := x.timer }) ∧
      (x.state ≠ .active →
        let st : LineState := match l.service with | .hold => .inService | .auto => if l.again then .pending else .idle
        let again := match l.service with | .hold => l.again | .auto => false
        s.elementBoundary e v1 v2 = ((((s.setEngine ⟨.idle, none⟩).setLine n { l with
          progress := x.progress, result := x.result, interval := none, edges := 0, state := st, again := again
          }).setNotices (postTo s.notices (.line n)
            (.line ⟨n, l.edges, .ok, some ⟨op.kind, x.progress, x.result⟩, false⟩))).deliver (.line n)))) ∧
  ∀ (s : State) (item : WorkItem) (f : FailRecord) (values : Option (Word × Word)),
    let y := s.setEngine ⟨.idle, none⟩
    let kept (r : Gathered) : Gathered := match values with | some v => { r with values := some v } | none => r
    (item = .entry → s.itemFailed item f values = y.setQueue { s.queue with
      entries := s.queue.entries.map fun en =>
        if en.state = .active then
          { en with state := .failed, timer := none, fail := some f, result := kept en.result }
        else en
      halted := true }) ∧
    (item = .orphan → s.itemFailed item f values = y) ∧
    ∀ n, item = .line n →
      let l := s.line n
      s.itemFailed item f values =
        (((y.setLine n { l with state := .faulted, interval := none, edges := 0, result := kept l.result }).setNotices
          (postTo s.notices (.line n) (.line ⟨n, l.edges, .failed f,
            l.action.map fun op => ⟨op.kind, l.progress, kept l.result⟩, false⟩))).deliver (.line n))

/-- The ten conditions: the card value and the second value, both under the mask and cut to the width, compared as
unsigned numbers, as signed numbers of the width, or the first alone with zero. -/
def Obligations.ConditionsCompareMaskedValues : Prop :=
  ∀ (w : Width) (value second mask : Word),
    let e := (value &&& mask &&& w.mask).toNat
    let v := (second &&& mask &&& w.mask).toNat
    let half : Nat := 256 ^ w.bytes / 2
    let signed (x : Nat) : Int := if x < half then x else (x : Int) - 2 * half
    (Condition.eq.holds w value second mask = true ↔ e = v) ∧
    (Condition.ne.holds w value second mask = true ↔ e ≠ v) ∧
    (Condition.ult.holds w value second mask = true ↔ e < v) ∧
    (Condition.ule.holds w value second mask = true ↔ e ≤ v) ∧
    (Condition.ugt.holds w value second mask = true ↔ e > v) ∧
    (Condition.uge.holds w value second mask = true ↔ e ≥ v) ∧
    (Condition.slt.holds w value second mask = true ↔ signed e < signed v) ∧
    (Condition.sge.holds w value second mask = true ↔ signed e ≥ signed v) ∧
    (Condition.any.holds w value second mask = true ↔ e ≠ 0) ∧
    (Condition.none.holds w value second mask = true ↔ e = 0)

/-! ## Cycles -/

/-- The length of a cycle: with SWAIT never sampled asserted it ends at its programmed length; once sampled asserted by
then it lasts two clocks more, and as long as SWAIT stays, up to the ready timeout. -/
def Obligations.CycleLengthBySwait : Prop :=
  ∀ c : Cycle, c.clock = 1 → c.held = false → 2 ≤ c.programmed →
    (∀ k, k < c.programmed - 1 → Cycle.run (List.replicate k false) c = .running { c with clock := k + 1 }) ∧
    Cycle.run (List.replicate (c.programmed - 1) false) c = .ended ∧
    (c.kind = .refresh → ∀ ws : List Bool, ws.length = c.programmed - 1 → Cycle.run ws c = .ended) ∧
    (c.kind ≠ .refresh → ∀ ws : List Bool, ws.length = c.programmed - 1 → true ∈ ws →
      Cycle.run ws c = .running { c with clock := c.programmed, held := true } ∧
      Cycle.run (ws ++ [false]) c = .running { c with clock := c.programmed + 1, held := true } ∧
      Cycle.run (ws ++ [false, false]) c = .ended ∧
      ∀ k, (∀ j, j < k → c.programmed + j ≤ 8 * c.readyTimeout) →
        (Cycle.run (ws ++ List.replicate k true) c = .running { c with clock := c.programmed + k, held := true }) ∧
        (8 * c.readyTimeout < c.programmed + k → Cycle.run (ws ++ List.replicate (k + 1) true) c = .timedOut) ∧
        (1 ≤ k → Cycle.run (ws ++ List.replicate k true ++ [false]) c = .ended))

/-- The cycles of a locked group: one for a byte, one for a two-byte element in a WIDE window, two for one in a NARROW
window, low byte first, the second at the address plus one within the space; in a SENSE window by SWIDE: asserted, the
one cycle carries the whole value, deasserted, a second carries the high byte. A Modify writes the new value as it read,
whole or split. The length and the timeout of a cycle are those of its window. The lines that the B16 drives: the address and SIO
through a cycle, SRD, SWR or SREFRESH and SLAST in its strobe, the data of a write in its strobe; toward a master its
read data, SWAIT from the strobe until its unit is served, and SWIDE; SRESET; SGNT through a channel's DMA cycles and in
MASTER. -/
def Obligations.GroupsSplitByWidth : Prop :=
  (∀ (g : Group) (swide swide' : Bool) (lines lines' : Word),
    (g.op = .read → g.pos = .read1 → g.width = .one →
      g.next swide lines = .finished (lines &&& 0x00FF) 0) ∧
    (g.op = .read → g.pos = .read1 → g.width = .two → g.attrs.width = .wide ∨ (g.attrs.width = .sense ∧ swide = true) →
      g.next swide lines = .finished lines 0) ∧
    (g.op = .read → g.pos = .read1 → g.width = .two →
      g.attrs.width = .narrow ∨ (g.attrs.width = .sense ∧ swide = false) →
      ∃ g', g.next swide lines = .more g' ∧ g'.cycle.isWrite = false ∧ g'.cycle.lanes = .narrow ∧
        g'.cycle.address = (g.address + 1) % spaceSize g.space ∧
        g'.next swide' lines' = .finished ((lines' &&& 0x00FF) <<< 8 ||| (lines &&& 0x00FF)) 0) ∧
    (∀ v, g.op = .write v → g.pos = .write1 →
      g.cycle.isWrite = true ∧
      (g.width = .one → g.cycle.lanes = .narrow ∧ g.cycle.drive = v &&& 0x00FF ∧
        ∃ x y, g.next swide lines = .finished x y) ∧
      (g.width = .two →
        (g.attrs.width = .wide → g.cycle.lanes = .wide ∧ g.cycle.drive = v ∧ g.next swide lines = .finished 0 0) ∧
        (g.attrs.width = .narrow → g.cycle.lanes = .narrow ∧ g.cycle.drive = v &&& 0x00FF) ∧
        (g.attrs.width = .sense → g.cycle.lanes = .wide ∧ g.cycle.drive = v) ∧
        (g.attrs.width = .sense → swide = true → g.next swide lines = .finished 0 0) ∧
        (g.attrs.width = .narrow ∨ (g.attrs.width = .sense ∧ swide = false) →
          ∃ g', g.next swide lines = .more g' ∧ g'.cycle.isWrite = true ∧ g'.cycle.lanes = .narrow ∧
            g'.cycle.address = (g.address + 1) % spaceSize g.space ∧ g'.cycle.drive = v >>> 8 ∧ g'.written = true ∧
            ∃ x y, g'.next swide' lines' = .finished x y))) ∧
    (∀ x y, g.op = .modify x y → g.pos = .read1 → g.width = .one →
      ∃ g', g.next swide lines = .more g' ∧ g'.cycle.isWrite = true ∧ g'.cycle.address = g.address ∧
        g'.cycle.drive = ((lines &&& 0x00FF &&& x) ||| y) &&& 0x00FF ∧
        g'.next swide' lines' = .finished (lines &&& 0x00FF) (((lines &&& 0x00FF &&& x) ||| y) &&& 0x00FF)) ∧
    (∀ x y, g.op = .modify x y → g.pos = .read1 → g.width = .two →
      let new (old : Word) : Word := (old &&& x) ||| y
      (g.attrs.width = .wide ∨ (g.attrs.width = .sense ∧ swide = true) →
        ∃ g', g.next swide lines = .more g' ∧ g'.cycle.isWrite = true ∧ g'.cycle.lanes = .wide ∧
          g'.cycle.address = g.address ∧ g'.cycle.drive = new lines ∧
          g'.next swide' lines' = .finished lines (new lines)) ∧
      (g.attrs.width = .narrow ∨ (g.attrs.width = .sense ∧ swide = false) →
        let old : Word := (lines' &&& 0x00FF) <<< 8 ||| (lines &&& 0x00FF)
        ∃ g1 g2, g.next swide lines = .more g1 ∧ g1.cycle.isWrite = false ∧ g1.cycle.lanes = .narrow ∧
          g1.cycle.address = (g.address + 1) % spaceSize g.space ∧
          g1.next swide' lines' = .more g2 ∧ g2.cycle.isWrite = true ∧ g2.cycle.lanes = .narrow ∧
          g2.cycle.address = g.address ∧ g2.cycle.drive = new old &&& 0x00FF ∧
          ∀ b l, ∃ g3, g2.next b l = .more g3 ∧ g3.cycle.isWrite = true ∧ g3.cycle.lanes = .narrow ∧
            g3.cycle.address = (g.address + 1) % spaceSize g.space ∧ g3.cycle.drive = new old >>> 8 ∧
            g3.written = true ∧ ∀ b' l', g3.next b' l' = .finished old (new old))) ∧
    (g.pos = .read1 ∨ g.pos = .write1 → g.cycle.address = g.address) ∧
    g.cycle.kind = (match g.space with | .memory => .memory | .io => .io) ∧
    g.cycle.programmed = (match g.space with | .memory => 3 | .io => 4) + g.attrs.waitCount ∧
    g.cycle.readyTimeout = g.attrs.readyTimeout ∧ g.cycle.clock = 1 ∧ g.cycle.held = false ∧
    g.cycle.needsUnit = false ∧ g.cycle.slast = false) ∧
  ∀ s : State,
    let d := s.slotLines
    (s.bus.cycle = none → d.address = none ∧ d.sio = false ∧ d.srd = false ∧ d.swr = false ∧ d.srefresh = false ∧
      d.slast = false ∧
      (∀ m v, s.bus.master = some m → m.answer = .readServed v →
        d.data = some (if m.wide then .wide else .narrow, v)) ∧
      ((∀ m v, s.bus.master = some m → m.answer ≠ .readServed v) → d.data = none)) ∧
    (∀ c, s.bus.cycle = some c →
      let strobe := decide (2 ≤ c.clock)
      d.address = some c.address ∧ (d.sio = true ↔ c.kind = .io) ∧
      (d.srd = true ↔ strobe = true ∧ c.isWrite = false ∧ c.kind ≠ .refresh) ∧ d.swr = (strobe && c.isWrite) ∧
      (d.srefresh = true ↔ strobe = true ∧ c.kind = .refresh) ∧ d.slast = (strobe && c.slast) ∧
      d.data = if strobe && c.isWrite then some (c.lanes, c.drive) else none) ∧
    (∀ m, s.bus.master = some m → d.swide = m.wide ∧
      (d.swait = true ↔ m.strobe = true ∧ (m.answer = .readWait ∨ m.answer = .writeWait))) ∧
    (s.bus.master = none → d.swide = false ∧ d.swait = false) ∧
    (d.sreset = true ↔ s.sreset ≠ .released) ∧
    ∀ n : Fin 4, d.sgnt[n.val] = true ↔ (∃ c, s.bus.cycle = some c ∧ c.kind = .dma n) ∨ (s.channel n).state = .master

/-- CYCLE_END of a cycle of a locked group that ends OK, the SWAIT samples being operands (log 4) and SFAULT the level
remembered (log 14): the next cycle of the group begins, its record written; or the group is finished and the bus is free:
the engine's element, of an entry, a line action or a link reset's orphan, ends or goes on to its memory part; a watch
read's value enters the pass, or is dropped when the read was discarded, and a WatchStop that waits is reached. The end of
the engine's tenure is a grant point; whether its next claim is there is a free order while WATCH waits (log 6). -/
def Obligations.CycleEndOk : Prop :=
  ∀ (swait : List Bool) (swide : Bool) (lines : Word) (s : State) (c : Cycle) (g : Group), s.bus.cycle = some c →
    c.kind = .memory ∨ c.kind = .io → c.needsUnit = false → Cycle.run swait c = .ended → s.sfault = false →
    s.bus.group = some g →
    let x := s.setBus { s.bus with cycle := none, group := none }
    (∀ g', g.next swide lines = .more g' →
      exec (.cycleEnd swait swide lines) s =
        .next (s.setBus ⟨some g'.cycle, some g', ⟨g'.space, g'.cycleAddress, g'.owner⟩, s.bus.master⟩).settle) ∧
    (∀ v1 v2 e, g.next swide lines = .finished v1 v2 → g.user = .engine → s.engine.element = some e →
      e.item = .entry → s.watchClaims = false →
      (e.after = .nothing →
        exec (.cycleEnd swait swide lines) s =
          .next (((x.setElement none).mapActive fun en => en.boundary v1 v2).setArbiter .idle).settle) ∧
      (∀ off, e.after = .store off →
        exec (.cycleEnd swait swide lines) s = .next (State.settle
          (((x.setElement (some { e with stage := .memoryLast, value := v1 })).setPort
            { s.port with engine := some ⟨.engine, off, e.width, .write v1⟩ }).setArbiter .idle))) ∧
      (∀ off, e.after = .fetch off →
        exec (.cycleEnd swait swide lines) s = .next (State.settle
          (((x.setElement (some { e with stage := .memoryLast, value := v1 })).setPort
            { s.port with engine := some ⟨.engine, off, e.width, .read⟩ }).setArbiter .idle)))) ∧
    (∀ v1 v2 r, g.next swide lines = .finished v1 v2 → g.user = .watch → s.watch.read = some r → r.discard = false →
      s.watch.stopping = false →
      exec (.cycleEnd swait swide lines) s = .next (State.settle
        ((x.setWatch { s.watch with
          read := none, pass := s.watch.pass.set r.slot.val (some (.value v1)), next := r.slot.val + 1 }).setArbiter
            .idle))) ∧
    (∀ v1 v2 e, g.next swide lines = .finished v1 v2 → g.user = .engine → s.engine.element = some e →
      let y : State := x.cardPartDone e v1 v2
      (y.watchClaims = false → exec (.cycleEnd swait swide lines) s = .next (y.setArbiter .idle).settle) ∧
      (y.watchClaims = true →
        let z : State := (y.setArbiter .idle).setFree (y.free + 1)
        exec (.cycleEnd swait swide lines) s =
          .next (if Config.freeOrder y.free then z else z.arbitrate).settle)) ∧
    (∀ e v1 v2,
      (e.after = .nothing → x.cardPartDone e v1 v2 = x.elementBoundary e v1 v2) ∧
      (∀ off, e.after = .store off → x.cardPartDone e v1 v2 =
        (x.setElement (some { e with stage := .memoryLast, value := v1 })).setPort
          { s.port with engine := some ⟨.engine, off, e.width, .write v1⟩ }) ∧
      (∀ off, e.after = .fetch off → x.cardPartDone e v1 v2 =
        (x.setElement (some { e with stage := .memoryLast, value := v1 })).setPort
          { s.port with engine := some ⟨.engine, off, e.width, .read⟩ })) ∧
    ∀ v1 v2 r, g.next swide lines = .finished v1 v2 → g.user = .watch → s.watch.read = some r →
      (s.watch.stopping = false → r.discard = true →
        exec (.cycleEnd swait swide lines) s =
          .next ((x.setWatch { s.watch with read := none }).setArbiter .idle).settle) ∧
      (s.watch.stopping = true →
        let y : State := (x.setWatch { s.watch with
          state := .stopped, stopping := false, rest := none, pass := Vector.replicate 8 none, next := 0
          read := none }).setArbiter .idle
        (∀ kind tag, s.link.slot = .working .watchStop kind tag → exec (.cycleEnd swait swide lines) s =
          .next (y.readied (kind ||| 0x80) tag (.watchState .stopped)).settle) ∧
        ((∀ kind tag, s.link.slot ≠ .working .watchStop kind tag) →
          exec (.cycleEnd swait swide lines) s = .next y.settle))

/-- A cycle that ends with SFAULT asserted, the level remembered (CYCLE_END, log 14), or by its timeout (READY_TIMEOUT_EXPIRY)
ends its group: the ACTIVE entry FAILED with the kind, the element's own space and address, `partial` when a write cycle
had ended OK, and `halted` set; a line action's line FAULTED, an orphan's failure discarded; a watch read faults its entry
of the pass. It ends a DMA element: the channel FAULTED with its blocks kept, FAULT posted, its tenure ended. A cycle that
does not end advances (log 4). The end of the engine's tenure is a grant point, a free order while WATCH waits (log 6). -/
def Obligations.CycleFaultsEndTheGroup : Prop :=
  (∀ (s : State) (c : Cycle), s.bus.cycle = some c → c.needsUnit = false →
    (∀ swait swide lines c', Cycle.run swait c = .running c' →
      exec (.cycleEnd swait swide lines) s = .next (s.setCycle (some c')).settle ∧
      exec (.readyTimeoutExpiry swait) s = .next (s.setCycle (some c')).settle) ∧
    ∀ g (k : FaultKind) (cmd : Instr), s.bus.group = some g → c.kind = .memory ∨ c.kind = .io →
      ((∃ swait swide lines, cmd = .cycleEnd swait swide lines ∧ Cycle.run swait c = .ended ∧ s.sfault = true ∧
          k = .channelCheck) ∨
        ∃ swait, cmd = .readyTimeoutExpiry swait ∧ Cycle.run swait c = .timedOut ∧ k = .readyTimeout) →
      let x := s.setBus { s.bus with cycle := none, group := none }
      (∀ e, g.user = .engine → s.engine.element = some e → e.item = .entry → s.watchClaims = false →
        exec cmd s = .next (State.settle
          (((x.setEngine ⟨.idle, none⟩).setQueue { s.queue with
            entries := s.queue.entries.map fun en =>
              if en.state = .active then
                { en with
                  state := .failed, timer := none, fail := some ⟨k, some (g.space, (g.address : Int)), g.written⟩
                  result := { en.result with
                    values := match g.failValues with | some v => some v | none => en.result.values } }
              else en
            halted := true }).setArbiter .idle))) ∧
      (∀ r, g.user = .watch → s.watch.read = some r → r.discard = false → s.watch.stopping = false →
        exec cmd s = .next (State.settle
          ((x.setWatch { s.watch with
            read := none, pass := s.watch.pass.set r.slot.val (some (.fault k)), next := r.slot.val + 1 }).setArbiter
              .idle))) ∧
      (∀ e, g.user = .engine → s.engine.element = some e →
        let y := x.itemFailed e.item ⟨k, some (g.space, (g.address : Int)), g.written⟩ g.failValues
        (y.watchClaims = false → exec cmd s = .next (y.setArbiter .idle).settle) ∧
        (y.watchClaims = true →
          let z : State := (y.setArbiter .idle).setFree (y.free + 1)
          exec cmd s = .next (if Config.freeOrder y.free then z else z.arbitrate).settle)) ∧
      (∀ r, g.user = .watch → s.watch.read = some r →
        (s.watch.stopping = false → r.discard = true →
          exec cmd s = .next ((x.setWatch { s.watch with read := none }).setArbiter .idle).settle) ∧
        (s.watch.stopping = true →
          let y : State := (x.setWatch { s.watch with
            state := .stopped, stopping := false, rest := none, pass := Vector.replicate 8 none, next := 0
            read := none }).setArbiter .idle
          (∀ kind tag, s.link.slot = .working .watchStop kind tag →
            exec cmd s = .next (y.readied (kind ||| 0x80) tag (.watchState .stopped)).settle) ∧
          ((∀ kind tag, s.link.slot ≠ .working .watchStop kind tag) → exec cmd s = .next y.settle)))) ∧
  (∀ g : Group,
    (∀ x y, g.op = .modify x y → g.readDone = true → g.failValues = some (g.old, g.new)) ∧
    ((∀ x y, g.op ≠ .modify x y) ∨ g.readDone = false → g.failValues = none)) ∧
  (∀ (s : State) (c : Cycle) (n : Fin 4) (b : Block) (k : FaultKind) (cmd : Instr), s.bus.cycle = some c →
    c.needsUnit = false → c.kind = .dma n → (s.channel n).current = some b →
    ((∃ swait swide lines, cmd = .cycleEnd swait swide lines ∧ Cycle.run swait c = .ended ∧ s.sfault = true ∧
        k = .channelCheck) ∨
      ∃ swait, cmd = .readyTimeoutExpiry swait ∧ Cycle.run swait c = .timedOut ∧ k = .readyTimeout) →
    exec cmd s = .next ((State.channelFault (s.setBus { s.bus with cycle := none }) n k).endTenure n false).settle) ∧
  ∀ (s : State) (n : Fin 4) (k : FaultKind),
    let c := s.channel n
    s.channelFault n k = (s.setChannel n { c with state := .faulted, fault := some k }).setNotices
      (postTo s.notices (.channel n) (.channel ⟨n, .fault, c.blocksDone, .faulted, c.overrun, c.starved, c.protectHit,
        some k, match c.current with | some b => b.count - b.done | none => 0⟩))

/-- CYCLE_END of a refresh cycle and of a DMA element that ends OK, the SWAIT samples being operands (log 4) and SFAULT the
level remembered (log 14): the row counter counts on and the bus is free or back with its channel; the store unit is
requested, the block advances, its terminal count is settled and what it ends lets the engine choose (log 16), and the
boundary is taken. The boundary: a SINGLE tenure ends, the channel shut out of that grant point; a quiesce or an assertion of
SRESET ends it, a claim renewed after a release of that SRESET taking part in the grant point (log 25); the completion of a block with nothing staged ends it, a reloaded channel's claim there or not by a free order
while another waits (log 6); a DEMAND tenure ends with SREQ deasserted; a pending refresh is inserted; else the next
element starts, or is refused and faults its channel. A tenure that ends leaves READY, IDLE or FAULTED, and reaches a quiesce
that waits. -/
def Obligations.CycleEndOfRefreshAndDma : Prop :=
  (∀ (swait : List Bool) (swide : Bool) (lines : Word) (s : State) (c : Cycle), s.bus.cycle = some c →
    c.needsUnit = false → Cycle.run swait c = .ended →
    let x := (s.setBus { s.bus with cycle := none })
    (c.kind = .refresh → s.arbiter = .granted .refresh →
      exec (.cycleEnd swait swide lines) s =
        .next ((x.setRefresh { s.refresh with row := s.refresh.row + 1 }).setArbiter .idle).settle) ∧
    (∀ n, c.kind = .refresh → s.arbiter = .insertedRefresh n →
      exec (.cycleEnd swait swide lines) s = .next (State.settle
        (((x.setRefresh { s.refresh with row := s.refresh.row + 1 }).setArbiter (.granted (.channel n))).dmaBoundary n
          false))) ∧
    ∀ n b, c.kind = .dma n → s.sfault = false → (s.channel n).current = some b →
      let cfg := (s.channel n).config
      let b' : Block := { b with done := b.done + 1, offset := stepMemory b.step cfg.width b.offset }
      let y : State :=
        if cfg.direction = .cardToMemory then
          x.setPort { s.port with
            bus := s.port.bus ++ [⟨.dmaStore n, b.offset.toNat, cfg.width, .write (lines &&& cfg.width.mask)⟩] }
        else x
      let z := y.setChannel n { s.channel n with current := some b' }
      (b.done + 1 ≠ b.count → exec (.cycleEnd swait swide lines) s = .next (z.dmaBoundary n false).settle) ∧
      (b.done + 1 = b.count →
        exec (.cycleEnd swait swide lines) s =
          .next (State.settle
            ((State.engineChoose 24 (z.terminalCount n b')).dmaBoundary n (s.channel n).staged.isNone)))) ∧
  (∀ (s : State) (n : Fin 4) (ended : Bool),
    let c := s.channel n
    let stops := c.quiescing = true ∨ c.stopped = true
    let drops := c.config.mode = .demand ∧ c.sreq = false
    (c.config.mode = .single → s.dmaBoundary n ended = s.endTenure n true) ∧
    (c.config.mode ≠ .single →
      (stops → s.dmaBoundary n ended = s.endTenure n false) ∧
      (¬ stops → ended = true → s.dmaBoundary n ended = s.endReloadTenure n) ∧
      (¬ stops → ended = false →
        (drops → s.dmaBoundary n ended = s.endTenure n false) ∧
        (¬ drops → s.refresh.pending = true → s.dmaBoundary n ended =
          ((s.setArbiter (.insertedRefresh n)).setRefresh { s.refresh with pending := false }).setCycle
            (some ⟨.refresh, s.refresh.row.toNat, false, .narrow, 0, 4, 0, 1, false, false, false⟩)) ∧
        (¬ drops → s.refresh.pending = false → s.dmaBoundary n ended = s.dmaElementStart n)))) ∧
  (∀ (s : State) (n : Fin 4),
    ((∀ d, d ≠ .channel n → s.claims d = false) → s.endReloadTenure n = s.endTenure n false) ∧
    ((∃ d, d ≠ .channel n ∧ s.claims d = true) →
      s.endReloadTenure n = (s.setFree (s.free + 1)).endTenure n (!Config.freeOrder s.free))) ∧
  (∀ (s : State) (n : Fin 4) (shut : Bool),
    let c := s.channel n
    let st : ChannelState :=
      if c.state = .faulted then .faulted else match c.current with | some _ => .ready | none => .idle
    let grantPoint (t : State) : State :=
      State.arbitrateExcept 8 (if shut then some (.channel n) else none) (t.setArbiter .idle)
    let cleared : State := s.setChannel n
      ⟨c.config, none, none, .idle, 0, false, false, false, none, c.tenureTimer, c.sreq, false, false⟩
    (c.quiescing = false → s.endTenure n shut = grantPoint (s.setChannel n { c with state := st, stopped := false })) ∧
    (c.quiescing = true →
      (∀ kind tag, s.link.slot = .working (.quiesce n) kind tag →
        s.endTenure n shut = grantPoint (cleared.readied (kind ||| 0x80) tag (.channelState .idle))) ∧
      ((∀ kind tag, s.link.slot ≠ .working (.quiesce n) kind tag) → s.endTenure n shut = grantPoint cleared))) ∧
  ∀ (s : State) (n : Fin 4),
    let c := s.channel n
    (c.current = none → s.dmaElementStart n = (s.setChannel n { c with state := .idle }).setArbiter .idle) ∧
    ∀ b, c.current = some b →
      (∀ k, dmaRefusal s.windows c.config b = some k → s.dmaElementStart n = (s.channelFault n k).setArbiter .idle) ∧
      (dmaRefusal s.windows c.config b = none →
        let toCard := c.config.direction = .memoryToCard
        let t := (s.setChannel n { c with stopped := false }).setBus { s.bus with
          cycle := some ⟨.dma n, b.offset.toNat, c.config.direction == .memoryToCard,
            match c.config.width with | .one => .narrow | .two => .wide, 0, 4 + c.config.waitCount,
            c.config.readyTimeout, 1, false, c.config.direction == .memoryToCard, b.done + 1 == b.count⟩
          record := ⟨.memory, b.offset.toNat, .channel n⟩ }
        (¬ toCard → s.dmaElementStart n = t) ∧
        (toCard → s.dmaElementStart n = t.setPort { s.port with
          bus := s.port.bus ++ [⟨.dmaRead n, b.offset.toNat, c.config.width, .read⟩] }))

/-- SFAULT_RISE sets the remembered level and posts a CHECK notice with the record of the most recent cycle; a level
already asserted is no edge, and a part reset lets only the level follow (log 9). SFAULT_FALL only updates the level. -/
def Obligations.SfaultEdgesAreReported : Prop :=
  ∀ s : State,
    (s.sfault = false → s.link.resetting = false →
      exec .sfaultRise s =
        .next ((s.setSfault true).setNotices (postTo s.notices .check (.check s.bus.record))).settleLink) ∧
    (s.sfault = false → s.link.resetting = true → exec .sfaultRise s = .next (s.setSfault true).settleLink) ∧
    (s.sfault = true → exec .sfaultRise s = .next s.settleLink) ∧
    exec .sfaultFall s = .next (s.setSfault false)

/-! ## A bus master's cycles -/

/-- MASTER_CYCLE_ADDRESS_PHASE while a channel is in MASTER and no strobe is asserted: a memory cycle into a BASE_MEMORY
window is answered, as a 16-bit cycle when SHIGH is asserted in a WIDE or SENSE window but at the last byte; a write into a
protected window sets `protect_hit`; any other cycle is not answered. Outside MASTER nothing is answered, an address phase
there having no effect of its own (log 3). A new address phase ends the cycle before it (log 12): a read unit of it that
waits is dropped, a store unit of it that waits and a turn of it are served without an owner. -/
def Obligations.MasterCyclesAreAnswered : Prop :=
  (∀ sp a shigh isWrite (s : State), (∀ n, s.arbiter = .granted (.channel n) → (s.channel n).state ≠ .master) →
    exec (.masterCycleAddressPhase sp a shigh isWrite) s = .next s.settle) ∧
  (∀ sp a shigh (n : Fin 4) (s : State), s.arbiter = .granted (.channel n) → (s.channel n).state = .master →
    (∀ m, s.bus.master = some m → m.strobe = false) →
    let at' := lookup s.windows sp a.toNat
    let wide := shigh && at'.width != .narrow && decide (a.toNat < 0xFFFFF)
    let w : Width := if wide then .two else .one
    let x := s.dropMaster
    (sp = .io ∨ at'.owner ≠ .baseMemory → ∀ isWrite,
      exec (.masterCycleAddressPhase sp a shigh isWrite) s =
        .next (x.setMaster (some ⟨sp, a.toNat, isWrite, false, .none, false⟩)).settle) ∧
    (sp = .memory → at'.owner = .baseMemory →
      exec (.masterCycleAddressPhase sp a shigh false) s = .next (State.settle
        ((x.setMaster (some ⟨sp, a.toNat, false, wide, .readWait, false⟩)).setPort
          { x.port with bus := x.port.bus ++ [⟨.masterRead, a.toNat, w, .read⟩] })) ∧
      (at'.writeProtect = false →
        exec (.masterCycleAddressPhase sp a shigh true) s =
          .next (x.setMaster (some ⟨sp, a.toNat, true, wide, .writeIdle a.toNat, false⟩)).settle) ∧
      (at'.writeProtect = true →
        exec (.masterCycleAddressPhase sp a shigh true) s = .next (State.settle
          ((x.setMaster (some ⟨sp, a.toNat, true, wide, .writeProtected, false⟩)).setChannel n
            { s.channel n with protectHit := true }))))) ∧
  ∀ s : State, s.dropMaster = (s.setBus { s.bus with master := none }).setPort { s.port with
    bus := (s.port.bus.filter fun u => u.requester != .masterRead).map fun u =>
      if u.requester = .masterStore then { u with requester := .orphan } else u
    turn := s.port.turn.map fun u =>
      if u.requester = .masterStore ∨ u.requester = .masterRead then { u with requester := .orphan } else u }

/-- MASTER_STROBE_ASSERT takes a write's data and requests its store; MASTER_STROBE_RELEASE and HANDBACK_TIMEOUT end the
master's cycle, and the bus is free again in HANDBACK; at the timeout a write not yet stored is not stored: the store that
waits leaves the waiting units, which keep their order, and one whose turn runs ends that turn with base memory as it was. What
becomes of the units of a master that has gone is log 12; a strobe of no cycle has no effect of its own (log 3). -/
def Obligations.MasterStrobesAndHandback : Prop :=
  ∀ (lines : Word) (s : State),
    (s.bus.master = none →
      exec (.masterStrobeAssert lines) s = .next s.settle ∧ exec .masterStrobeRelease s = .next s.settle) ∧
    (∀ m, s.bus.master = some m →
      let w : Width := if m.wide then .two else .one
      (∀ a, m.strobe = false → m.answer = .writeIdle a →
        exec (.masterStrobeAssert lines) s = .next (State.settle
          ((s.setMaster (some { m with strobe := true, answer := .writeWait })).setPort
            { s.port with bus := s.port.bus ++ [⟨.masterStore, a, w, .write (lines &&& w.mask)⟩] }))) ∧
      (m.strobe = false → (∀ a, m.answer ≠ .writeIdle a) →
        exec (.masterStrobeAssert lines) s = .next (s.setMaster (some { m with strobe := true })).settle) ∧
      (∀ n, m.strobe = true → s.arbiter = .handback n →
        exec .masterStrobeRelease s = .next (s.dropMaster.setArbiter .idle).settle) ∧
      (m.strobe = true → (∀ n, s.arbiter ≠ .handback n) →
        exec .masterStrobeRelease s = .next s.dropMaster.settle)) ∧
    (∀ n, s.arbiter = .handback n →
      exec .handbackTimeout s = .next ((s.setPort s.port.dropMasterStore).dropMaster.setArbiter .idle).settle ∧
      ∀ u ∈ s.port.dropMasterStore.bus, u.requester ≠ .masterStore) ∧
    ((∀ n, s.arbiter ≠ .handback n) → exec .handbackTimeout s = .next s.settle) ∧
    s.port.dropMasterStore = { s.port with
      bus := s.port.bus.filter fun u => u.requester != .masterStore
      turn := s.port.turn.map fun u =>
        if u.requester = .masterStore then { u with requester := .orphan, op := .read } else u } ∧
    (∀ u, s.port.turn = some u → u.requester = .masterStore →
      (s.setPort s.port.dropMasterStore).dropMaster.port.turn = some { u with requester := .orphan, op := .read }) ∧
    ∀ u, s.port.turn = some u → u.requester = .orphan → u.op = .read →
      ∃ t, exec .memoryTurnEnd s = .next t ∧ t.mem = s.mem

/-- A grant point: an IDLE arbiter grants the waiting claimant of highest priority, REFRESH, CHANNEL 0 to 3, ENGINE, WATCH,
and REFRESH alone while SRESET is asserted; a claimant that a SINGLE tenure's end shuts out takes no part in it, nor in
those that follow from refused elements (log 22). Refresh: its pending flag cleared, the row driven. A cascade channel: MASTER, its
tenure timer started, unless SREQ has fallen. Another channel: MOVING, its first element starts, or is refused, and the
next grant point comes at once. ENGINE and WATCH: the first cycle of the locked group, with its record. -/
def Obligations.GrantsFollowThePriority : Prop :=
  (∀ (s : State) (ex : Option Claimant),
    let waits (d : Claimant) : Prop :=
      match d with
      | .refresh => s.refresh.pending = true
      | .channel n => ((s.channel n).state = .ready ∧ (s.channel n).sreq = true ∧ (s.channel n).current ≠ none) ∨
          (s.channel n).state = .waiting
      | .engine => ∃ e, s.engine.element = some e ∧ e.stage = .card ∧ e.attrs.owner = .card ∧
          ∀ g, s.bus.group = some g → g.user ≠ .engine
      | .watch => ∃ r, s.watch.read = some r ∧ r.attrs.owner = .card ∧ ∀ g, s.bus.group = some g → g.user ≠ .watch
    let eligible (d : Claimant) : Prop := waits d ∧ (s.sreset = .released ∨ d = .refresh) ∧ ex ≠ some d
    let rank (d : Claimant) : Nat :=
      match d with | .refresh => 0 | .channel n => n.val + 1 | .engine => 5 | .watch => 6
    (∀ d, s.claims d = true ↔ waits d) ∧
    (∀ d, s.bestClaim ex = some d ↔ eligible d ∧ ∀ d', rank d' < rank d → ¬ eligible d') ∧
    (s.bestClaim ex = none ↔ ∀ d, ¬ eligible d)) ∧
  (∀ (k : Nat) (ex : Option Claimant) (s : State),
    (s.arbiter ≠ .idle → State.arbitrateExcept k ex s = s) ∧
    (s.arbiter = .idle → s.bestClaim ex = none → State.arbitrateExcept k ex s = s) ∧
    ∀ d, s.arbiter = .idle → s.bestClaim ex = some d →
      State.arbitrateExcept (k + 1) ex s = State.arbitrateExcept k ex (s.grant d)) ∧
  ∀ s : State,
    s.arbitrate = State.arbitrateExcept 8 none s ∧
    s.grant .refresh = ((s.setArbiter (.granted .refresh)).setRefresh { s.refresh with pending := false }).setCycle
      (some ⟨.refresh, s.refresh.row.toNat, false, .narrow, 0, 4, 0, 1, false, false, false⟩) ∧
    (∀ n, let c := s.channel n
      (c.config.mode = .cascade → c.sreq = true → s.grant (.channel n) =
        (s.setChannel n { c with
          state := .master, tenureTimer := if c.config.tenureLimit = 0 then none else some c.config.tenureLimit
          }).setArbiter (.granted (.channel n))) ∧
      (c.config.mode = .cascade → c.sreq = false →
        s.grant (.channel n) = (s.setChannel n { c with state := .idle }).setArbiter .idle) ∧
      (c.config.mode ≠ .cascade → s.grant (.channel n) =
        ((s.setChannel n { c with state := .moving }).setArbiter (.granted (.channel n))).dmaElementStart n)) ∧
    (∀ e, s.engine.element = some e →
      let g : Group := ⟨.engine, e.owner, e.space, e.address, e.width, e.attrs, e.op,
        match e.op with | .write _ => .write1 | .read => .read1 | .modify _ _ => .read1, 0, 0, false, false, false⟩
      s.grant .engine = (s.setArbiter (.granted .engine)).setBus
        ⟨some g.cycle, some g, ⟨e.space, e.address, e.owner⟩, s.bus.master⟩) ∧
    ∀ r, s.watch.read = some r →
      let g : Group := ⟨.watch, .watch, r.space, r.address, r.width, r.attrs, .read, .read1, 0, 0, false, false, false⟩
      s.grant .watch = (s.setArbiter (.granted .watch)).setBus
        ⟨some g.cycle, some g, ⟨r.space, r.address, .watch⟩, s.bus.master⟩

/-! ## Notices -/

/-- A posting appends a notice of one occurrence at the tail, or merges into the waiting one of its source in its place:
occurrences counted up to 65535, LINE edges added up to 255 and `result_lost` set over a result, a CHANNEL fault kept, WATCH sets
joined. -/
def Obligations.PostingsAppendOrMerge : Prop :=
  (∀ (ns : List Notice) (src : Source) (b : NoticeBody), (∀ n ∈ ns, n.source ≠ src) →
    postTo ns src b = ns ++ [⟨src, 1, b⟩]) ∧
  (∀ (xs ys : List Notice) (n : Notice) (b : NoticeBody), noticesOk (xs ++ n :: ys) →
    postTo (xs ++ n :: ys) n.source b =
      xs ++ ⟨n.source, min 65535 (n.occurrences + 1), mergeBody n.body b⟩ :: ys) ∧
  (∀ x y : LineBody, mergeBody (.line x) (.line y) = .line { y with
    edges := min 255 (x.edges + y.edges), resultLost := x.resultLost || (x.status != .none) }) ∧
  (∀ x y : ChannelBody, mergeBody (.channel x) (.channel y) = .channel { y with fault := y.fault <|> x.fault }) ∧
  (∀ x y : WatchBody, mergeBody (.watch x) (.watch y) = .watch { y with
    changed := Vector.ofFn fun i : Fin 8 => x.changed[i.val] || y.changed[i.val] }) ∧
  (∀ x y, mergeBody (.check x) (.check y) = .check y) ∧
  ∀ x y, mergeBody (.refresh x) (.refresh y) = .refresh y

/-! ## Invariants of every step -/

/-- Base memory keeps its canonical form. -/
def Obligations.StepKeepsMemoryCanonical : Prop :=
  ∀ s t : State, memoryOk s → step s = .next t → memoryOk t

/-- The window table keeps R19's promise, the request queue R48's, the notice queue R154's. -/
def Obligations.StepKeepsTheTables : Prop :=
  ∀ s t : State, step s = .next t →
    (windowsOk s.windows → windowsOk t.windows) ∧ (queueOk s.queue → queueOk t.queue) ∧
    (noticesOk s.notices → noticesOk t.notices)

/-- At most one entry is ACTIVE, every older one finished, and none is while `halted` is set. A channel holds a staged
block only beside a current one, and elements done never reach the count in a block held. -/
def Obligations.StepKeepsActiveAndBlocks : Prop :=
  (∀ s t : State, activeOk s.queue → step s = .next t → activeOk t.queue) ∧
  (∀ s t : State, channelsOk s → step s = .next t → channelsOk t)
end

