-- ==== Sys2Proof/Laws/Asks.lean ====
section
/-! SUPPORT. The checks of the requests and the predicates that claims use say the same: a check answers a value exactly
when the request asks for it. -/

namespace Sys2Proof.Machine

/-! ## Listed values -/

theorem finOf_some {n x : Nat} {i : Fin n} : finOf n x = some i ↔ x = i.val := by
  unfold finOf
  constructor
  · intro h; split at h
    · simp at h; rw [← h]
    · simp at h
  · intro h; subst h; simp

theorem finOf_none {n x : Nat} : finOf n x = none ↔ n ≤ x := by
  unfold finOf; split <;> simp <;> omega

theorem boolOf_some {b : Byte} {x : Bool} : boolOf b = some x ↔ b = boolByte x := by
  constructor
  · intro h; unfold boolOf at h; split at h <;> simp at h
    all_goals subst h; exact BitVec.eq_of_toNat_eq ‹_›
  · rintro rfl; cases x <;> rfl

theorem spaceOf_some {b : Byte} {x : Space} : spaceOf b = some x ↔ b = spaceByte x := by
  constructor
  · intro h; unfold spaceOf at h; split at h <;> simp at h
    all_goals subst h; exact BitVec.eq_of_toNat_eq ‹_›
  · rintro rfl; cases x <;> rfl

theorem widthOf_some {b : Byte} {x : Width} : widthOf b = some x ↔ b = Width.code x := by
  constructor
  · intro h; unfold widthOf at h; split at h <;> simp at h
    all_goals subst h; exact BitVec.eq_of_toNat_eq ‹_›
  · rintro rfl; cases x <;> rfl

theorem stepOf_some {b : Byte} {x : Step} : stepOf b = some x ↔ b = Step.code x := by
  constructor
  · intro h; unfold stepOf at h; split at h <;> simp at h
    all_goals subst h; exact BitVec.eq_of_toNat_eq ‹_›
  · rintro rfl; cases x <;> rfl

theorem memStepOf_some {b : Byte} {x : MemStep} : memStepOf b = some x ↔ b = MemStep.code x := by
  constructor
  · intro h; unfold memStepOf at h; split at h <;> simp at h
    all_goals subst h; exact BitVec.eq_of_toNat_eq ‹_›
  · rintro rfl; cases x <;> rfl

theorem directionOf_some {b : Byte} {x : Direction} : directionOf b = some x ↔ b = Direction.code x := by
  constructor
  · intro h; unfold directionOf at h; split at h <;> simp at h
    all_goals subst h; exact BitVec.eq_of_toNat_eq ‹_›
  · rintro rfl; cases x <;> rfl

theorem conditionOf_some {b : Byte} {x : Condition} : conditionOf b = some x ↔ b = Condition.code x := by
  constructor
  · intro h; unfold conditionOf at h; split at h <;> simp at h
    all_goals subst h; exact BitVec.eq_of_toNat_eq ‹_›
  · rintro rfl; cases x <;> rfl

theorem windowOwnerOf_some {b : Byte} {x : WindowOwner} : windowOwnerOf b = some x ↔ b = WindowOwner.byte x := by
  constructor
  · intro h; unfold windowOwnerOf at h; split at h <;> simp at h
    all_goals subst h; exact BitVec.eq_of_toNat_eq ‹_›
  · rintro rfl; cases x <;> rfl

theorem widthAttrOf_some {b : Byte} {x : WidthAttr} : widthAttrOf b = some x ↔ b = WidthAttr.byte x := by
  constructor
  · intro h; unfold widthAttrOf at h; split at h <;> simp at h
    all_goals subst h; exact BitVec.eq_of_toNat_eq ‹_›
  · rintro rfl; cases x <;> rfl

theorem channelDirectionOf_some {b : Byte} {x : ChannelDirection} : channelDirectionOf b = some x ↔ b = ChannelDirection.code x := by
  constructor
  · intro h; unfold channelDirectionOf at h; split at h <;> simp at h
    all_goals subst h; exact BitVec.eq_of_toNat_eq ‹_›
  · rintro rfl; cases x <;> rfl

theorem channelModeOf_some {b : Byte} {x : ChannelMode} : channelModeOf b = some x ↔ b = ChannelMode.code x := by
  constructor
  · intro h; unfold channelModeOf at h; split at h <;> simp at h
    all_goals subst h; exact BitVec.eq_of_toNat_eq ‹_›
  · rintro rfl; cases x <;> rfl

theorem endModeOf_some {b : Byte} {x : EndMode} : endModeOf b = some x ↔ b = EndMode.code x := by
  constructor
  · intro h; unfold endModeOf at h; split at h <;> simp at h
    all_goals subst h; exact BitVec.eq_of_toNat_eq ‹_›
  · rintro rfl; cases x <;> rfl

theorem lineRoleOf_some {b : Byte} {x : LineRole} : lineRoleOf b = some x ↔ b = LineRole.code x := by
  constructor
  · intro h; unfold lineRoleOf at h; split at h <;> simp at h
    all_goals subst h; exact BitVec.eq_of_toNat_eq ‹_›
  · rintro rfl; cases x <;> rfl

theorem lineModeOf_some {b : Byte} {x : LineMode} : lineModeOf b = some x ↔ b = LineMode.code x := by
  constructor
  · intro h; unfold lineModeOf at h; split at h <;> simp at h
    all_goals subst h; exact BitVec.eq_of_toNat_eq ‹_›
  · rintro rfl; cases x <;> rfl

theorem serviceOf_some {b : Byte} {x : Service} : serviceOf b = some x ↔ b = Service.code x := by
  constructor
  · intro h; unfold serviceOf at h; split at h <;> simp at h
    all_goals subst h; exact BitVec.eq_of_toNat_eq ‹_›
  · rintro rfl; cases x <;> rfl

theorem watchModeOf_some {b : Byte} {x : WatchMode} : watchModeOf b = some x ↔ b = WatchMode.code x := by
  constructor
  · intro h; unfold watchModeOf at h; split at h <;> simp at h
    all_goals subst h; exact BitVec.eq_of_toNat_eq ‹_›
  · rintro rfl; cases x <;> rfl

theorem awaitSourceOf_some {b : Byte} {x : AwaitSource} : awaitSourceOf b = some x ↔ b = x.code := by
  constructor
  · intro h; unfold awaitSourceOf at h
    split at h
    · rename_i n hn; simp at h; subst h
      have := finOf_some.mp hn
      apply BitVec.eq_of_toNat_eq; simp [AwaitSource.code]; omega
    · rename_i h8
      have h8 := finOf_none.mp h8
      split at h
      · rename_i n hn; simp at h; subst h
        have := finOf_some.mp hn
        apply BitVec.eq_of_toNat_eq; simp [AwaitSource.code]; omega
      · split at h
        · simp at h; subst h; exact BitVec.eq_of_toNat_eq ‹_›
        · simp at h
  · rintro rfl
    cases x with
    | line n => revert n; decide
    | channel n => revert n; decide
    | watch => rfl

theorem triggerOf_some {b : Byte} {x : Option (Fin 8)} : triggerOf b = some x ↔ b = triggerCode x := by
  constructor
  · intro h; unfold triggerOf at h
    split at h
    · simp at h; subst h; assumption
    · simp at h; obtain ⟨n, hn, rfl⟩ := h
      have := finOf_some.mp hn
      apply BitVec.eq_of_toNat_eq; simp [triggerCode]; omega
  · rintro rfl
    cases x with
    | none => rfl
    | some n => revert n; decide

/-! ## Operations -/

theorem inWidth_iff {w : Width} {v : Word} : inWidth w v = true ↔ w.Holds v := by
  cases w
  · simp only [inWidth, Width.trim, Width.mask, Width.Holds, Width.bytes, beq_iff_eq]
    constructor
    · intro h; rw [← h, BitVec.toNat_and]
      exact Nat.lt_of_le_of_lt Nat.and_le_right (by decide)
    · intro h; apply BitVec.eq_of_toNat_eq
      rw [BitVec.toNat_and, show (0x00FF : Word).toNat = 2 ^ 8 - 1 from rfl, Nat.and_two_pow_sub_one_eq_mod]
      omega
  · simp only [inWidth, Width.trim, Width.mask, Width.Holds, Width.bytes, beq_iff_eq]
    have hv := v.isLt
    constructor
    · intro _; omega
    · intro _; apply BitVec.eq_of_toNat_eq
      rw [BitVec.toNat_and, show (0xFFFF : Word).toNat = 2 ^ 16 - 1 from rfl, Nat.and_two_pow_sub_one_eq_mod]
      omega

theorem checkCardSide_some {c : CardFields} {k : CardSide} : checkCardSide c = some k ↔ c.Asks k := by
  unfold checkCardSide
  constructor
  · intro h
    simp only [Option.bind_eq_bind, Option.bind_eq_some_iff] at h
    obtain ⟨sp, hs, w, hw, h⟩ := h
    split at h
    · simp at h; subst h; exact ⟨spaceOf_some.mp hs, rfl, ‹_›, widthOf_some.mp hw⟩
    · simp at h
  · rintro ⟨h1, h2, h3, h4⟩
    rw [spaceOf_some.mpr h1, widthOf_some.mpr h4]
    simp [h2, h3]

theorem checkCount_some {c : BitVec 32} {n : Nat} : checkCount c = some n ↔ c.toNat = n ∧ 1 ≤ n ∧ n ≤ 65536 := by
  unfold checkCount
  constructor
  · intro h; split at h
    · simp at h; subst h; exact ⟨rfl, ‹_›⟩
    · simp at h
  · rintro ⟨rfl, h⟩; simp [h]

theorem admitRead_some {c : CardFields} {op : Op} : admitRead c = some op ↔ ∃ k, op = .read k ∧ c.Asks k := by
  simp only [admitRead, Option.bind_eq_bind, Option.bind_eq_some_iff, checkCardSide_some, Option.some.injEq]
  exact ⟨fun ⟨k, h, e⟩ => ⟨k, e.symm, h⟩, fun ⟨k, e, h⟩ => ⟨k, h, e.symm⟩⟩

theorem admitWrite_some {c : CardFields} {v : Word} {op : Op} :
    admitWrite c v = some op ↔ ∃ k, op = .write k v ∧ c.Asks k ∧ k.width.Holds v := by
  simp only [admitWrite, Option.bind_eq_bind, Option.bind_eq_some_iff, checkCardSide_some, ← inWidth_iff]
  constructor
  · rintro ⟨k, h, e⟩; split at e
    · simp at e; exact ⟨k, e.symm, h, ‹_›⟩
    · simp at e
  · rintro ⟨k, rfl, h, hw⟩; exact ⟨k, h, by simp [hw]⟩

theorem admitModify_some {c : CardFields} {x o : Word} {op : Op} :
    admitModify c x o = some op ↔ ∃ k, op = .modify k x o ∧ c.Asks k ∧ k.width.Holds x ∧ k.width.Holds o := by
  simp only [admitModify, Option.bind_eq_bind, Option.bind_eq_some_iff, checkCardSide_some, ← inWidth_iff]
  constructor
  · rintro ⟨k, h, e⟩; split at e
    · rename_i hw; simp at e hw; exact ⟨k, e.symm, h, hw⟩
    · simp at e
  · rintro ⟨k, rfl, h, hw⟩; exact ⟨k, h, by simp [hw]⟩

theorem checkMemorySide_some {dir : Direction} {bytes : Nat} {side : Byte} {o : BitVec 24} {st : Byte}
    {data : List Byte} {m : MemorySide} :
    checkMemorySide dir bytes side o st data = some m ↔ m.Asked dir bytes side o st data := by
  unfold checkMemorySide
  constructor
  · intro h
    split at h
    · rename_i hs
      simp only [Option.bind_eq_bind, Option.bind_eq_some_iff] at h
      obtain ⟨ms, h1, h2⟩ := h
      split at h2
      · rename_i hc; simp at h2; subst h2
        exact ⟨BitVec.eq_of_toNat_eq hs, rfl, hc.1, memStepOf_some.mp h1, hc.2⟩
      · simp at h2
    · rename_i hs
      obtain ⟨hc, h⟩ := Option.ite_none_right_eq_some.mp h
      simp only [Option.some.injEq] at h; subst h
      exact ⟨BitVec.eq_of_toNat_eq hs, hc.1, hc.2.1, hc.2.2.1, rfl, hc.2.2.2⟩
    · simp at h
  · intro h
    cases m with
    | base off ms =>
      obtain ⟨rfl, rfl, h1, h2, rfl⟩ := h
      simp [memStepOf_some.mpr h2, h1]
    | inline d =>
      obtain ⟨rfl, h1, rfl, rfl, rfl, h2⟩ := h
      exact if_pos ⟨h1, rfl, rfl, h2⟩

theorem admitTransfer_some {f : TransferFields} {data : List Byte} {op : Op} :
    admitTransfer f data = some op ↔ f.Asks data op := by
  unfold admitTransfer
  simp only [Option.bind_eq_bind, Option.bind_eq_some_iff, checkCardSide_some, directionOf_some, stepOf_some,
    checkCount_some, checkMemorySide_some, Option.some.injEq]
  constructor
  · rintro ⟨d, h1, k, h2, st, h3, n, ⟨h4, h5, h6⟩, m, h7, rfl⟩
    exact ⟨h1, h2, h3, h4, h5, h6, h7⟩
  · intro h
    cases op with
    | transfer d k st n m =>
      obtain ⟨h1, h2, h3, h4, h5, h6, h7⟩ := h
      exact ⟨d, h1, k, h2, st, h3, n, ⟨h4, h5, h6⟩, m, h7, rfl⟩
    | _ => exact absurd h (by simp [TransferFields.Asks])

theorem checkCapture_some {p : Byte} {c : BitVec 24} {x : Option Nat} :
    checkCapture p c = some x ↔
      (match x with
      | some off => p = 1 ∧ c.toNat = off ∧ off < Config.memorySize
      | none => p = 0 ∧ c = 0) := by
  unfold checkCapture
  simp only [Option.bind_eq_bind, Option.bind_eq_some_iff, boolOf_some]
  constructor
  · rintro ⟨b, rfl, h⟩
    cases b
    · simp only [Bool.false_eq_true, if_false] at h
      split at h
      · simp at h; subst h; exact ⟨rfl, ‹_›⟩
      · simp at h
    · simp only [if_true] at h
      split at h
      · simp at h; subst h; exact ⟨rfl, rfl, ‹_›⟩
      · simp at h
  · cases x with
    | none => rintro ⟨rfl, rfl⟩; exact ⟨false, rfl, rfl⟩
    | some off => rintro ⟨rfl, rfl, h⟩; exact ⟨true, rfl, by simp [h]⟩

theorem admitScan_some {f : ScanFields} {op : Op} : admitScan f = some op ↔ f.Asks op := by
  unfold admitScan
  simp only [Option.bind_eq_bind, Option.bind_eq_some_iff, checkCardSide_some, stepOf_some, checkCount_some,
    conditionOf_some, checkCapture_some]
  constructor
  · rintro ⟨k, h1, st, h2, n, ⟨h3, h4, h5⟩, cd, h6, cap, h7, h⟩
    split at h
    · rename_i hw; simp only [Bool.and_eq_true, inWidth_iff] at hw
      simp at h; subst h
      exact ⟨h1, h2, h3, h4, h5, h6, rfl, hw.1, rfl, hw.2, rfl, h7⟩
    · simp at h
  · intro h
    cases op with
    | scan k st n cd o m i cap =>
      obtain ⟨h1, h2, h3, h4, h5, h6, rfl, h8, rfl, h10, rfl, h12⟩ := h
      refine ⟨k, h1, st, h2, n, ⟨h3, h4, h5⟩, cd, h6, cap, h12, ?_⟩
      rw [if_pos (by simp only [Bool.and_eq_true, inWidth_iff]; exact ⟨h8, h10⟩)]
    | _ => exact absurd h (by simp [ScanFields.Asks])

theorem admitCompare_some {f : CompareFields} {op : Op} : admitCompare f = some op ↔ f.Asks op := by
  unfold admitCompare
  simp only [Option.bind_eq_bind, Option.bind_eq_some_iff, checkCardSide_some, stepOf_some, memStepOf_some,
    checkCount_some, conditionOf_some]
  constructor
  · rintro ⟨k, h1, st, h2, ms, h3, n, ⟨h4, h5, h6⟩, cd, h7, h⟩
    split at h
    · rename_i hw; simp only [Bool.and_eq_true, inWidth_iff, decide_eq_true_eq] at hw
      simp at h; subst h
      exact ⟨h1, h2, rfl, hw.2, h3, h4, h5, h6, h7, rfl, hw.1⟩
    · simp at h
  · intro h
    cases op with
    | compare k st off ms n cd m =>
      obtain ⟨h1, h2, rfl, h4, h5, h6, h7, h8, h9, rfl, h11⟩ := h
      refine ⟨k, h1, st, h2, ms, h5, n, ⟨h6, h7, h8⟩, cd, h9, ?_⟩
      rw [if_pos (by simp only [Bool.and_eq_true, inWidth_iff, decide_eq_true_eq]; exact ⟨h11, h4⟩)]
    | _ => exact absurd h (by simp [CompareFields.Asks])

theorem admitDelay_some {d : BitVec 32} {op : Op} :
    admitDelay d = some op ↔ ∃ n, op = .delay n ∧ d.toNat = n ∧ 1 ≤ n ∧ n ≤ 1000000 := by
  unfold admitDelay
  constructor
  · intro h; split at h
    · simp at h; exact ⟨_, h.symm, rfl, ‹_›⟩
    · simp at h
  · rintro ⟨n, rfl, rfl, h⟩; simp [h]

theorem admitAwait_some {g : Byte} {t : Word} {op : Op} :
    admitAwait g t = some op ↔ ∃ src n, op = .await src n ∧ g = src.code ∧ t.toNat = n ∧ 1 ≤ n := by
  unfold admitAwait
  simp only [Option.bind_eq_bind, Option.bind_eq_some_iff, awaitSourceOf_some]
  constructor
  · rintro ⟨src, h1, h⟩
    split at h
    · simp at h
    · rename_i ht; simp at h
      refine ⟨src, _, h.symm, h1, rfl, ?_⟩
      have : t.toNat ≠ 0 := fun e => ht (BitVec.eq_of_toNat_eq e)
      omega
  · rintro ⟨src, n, rfl, h1, rfl, h2⟩
    refine ⟨src, h1, ?_⟩
    rw [if_neg (by rintro rfl; simp at h2)]

theorem admitSlotReset_some {d : Word} {op : Op} :
    admitSlotReset d = some op ↔ ∃ n, op = .slotReset n ∧ d.toNat = n ∧ 10 ≤ n := by
  unfold admitSlotReset
  constructor
  · intro h; split at h
    · simp at h; exact ⟨_, h.symm, rfl, ‹_›⟩
    · simp at h
  · rintro ⟨n, rfl, rfl, h⟩; simp [h]

theorem onlyWithout_some {data : List Byte} {x : Option Op} {op : Op} :
    onlyWithout data x = some op ↔ data = [] ∧ x = some op := by
  unfold onlyWithout; split <;> simp_all


/-! ## Immediate requests -/

theorem byte_pos {b : Byte} : b ≠ 0 ↔ 1 ≤ b.toNat := by
  constructor
  · intro h; have : b.toNat ≠ 0 := fun e => h (BitVec.eq_of_toNat_eq e)
    omega
  · rintro h rfl; simp at h

theorem checkWindow_some {f : WindowFields} {n : Fin 16} {w : Window} :
    checkWindow f = some (n, w) ↔ f.Asks n w := by
  unfold checkWindow
  simp only [Option.bind_eq_bind, Option.bind_eq_some_iff, finOf_some, spaceOf_some, windowOwnerOf_some,
    widthAttrOf_some, boolOf_some]
  constructor
  · rintro ⟨m, h1, sp, h2, ow, h3, wd, h4, pr, h5, h⟩
    obtain ⟨hc, h⟩ := Option.ite_none_right_eq_some.mp h
    simp only [Option.some.injEq, Prod.mk.injEq] at h
    obtain ⟨rfl, rfl⟩ := h
    obtain ⟨c1, c2, c3, c4, c5⟩ := hc
    exact ⟨h1, h2, rfl, rfl, c1, c2, h3, h4, ⟨rfl, c3⟩, ⟨rfl, byte_pos.mp c4⟩, h5, c5⟩
  · rintro ⟨h1, h2, h3, h4, h5, h6, h7, h8, h9, h10, h11, h12⟩
    obtain ⟨sp, ba, li, ow, wd, wc, rt, pr⟩ := w
    simp only at *
    refine ⟨n, h1, sp, h2, ow, h7, wd, h8, pr, h11, ?_⟩
    obtain ⟨h9, h9'⟩ := h9
    obtain ⟨h10, h10'⟩ := h10
    subst h3 h4 h9 h10
    exact if_pos ⟨h5, h6, h9', byte_pos.mpr h10', h12⟩

theorem checkChannel_some {f : ChannelFields} {n : Fin 4} {c : ChannelConfig} :
    checkChannel f = some (n, c) ↔ f.Asks n c := by
  unfold checkChannel
  simp only [Option.bind_eq_bind, Option.bind_eq_some_iff, finOf_some, boolOf_some, channelDirectionOf_some,
    widthOf_some, channelModeOf_some, endModeOf_some]
  constructor
  · rintro ⟨m, h1, en, h2, d, h3, w, h4, mo, h5, em, h6, h⟩
    obtain ⟨hc, h⟩ := Option.ite_none_right_eq_some.mp h
    simp only [Option.some.injEq, Prod.mk.injEq] at h
    obtain ⟨rfl, rfl⟩ := h
    exact ⟨h1, h2, h3, h4, h5, h6, ⟨rfl, hc.1⟩, ⟨rfl, byte_pos.mp hc.2⟩, rfl⟩
  · rintro ⟨h1, h2, h3, h4, h5, h6, ⟨h7, h7'⟩, ⟨h8, h8'⟩, h9⟩
    obtain ⟨en, d, w, mo, em, wc, rt, tl⟩ := c
    simp only at *
    refine ⟨n, h1, en, h2, d, h3, w, h4, mo, h5, em, h6, ?_⟩
    subst h7 h8 h9
    exact if_pos ⟨h7', byte_pos.mpr h8'⟩

theorem checkStage_some {f : StageFields} {n : Fin 4} {b : Block} :
    checkStage f = some (n, b) ↔ f.Asks n b := by
  unfold checkStage
  simp only [Option.bind_eq_bind, Option.bind_eq_some_iff, finOf_some, checkCount_some, memStepOf_some]
  constructor
  · rintro ⟨m, h1, k, h2, st, h3, h⟩
    obtain ⟨hc, h⟩ := Option.ite_none_right_eq_some.mp h
    simp only [Option.some.injEq, Prod.mk.injEq] at h
    obtain ⟨rfl, rfl⟩ := h
    exact ⟨h1, rfl, hc, h2, h3, rfl, rfl⟩
  · rintro ⟨h1, h2, h3, h4, h5, h6, h7⟩
    obtain ⟨o, k, st, d, og⟩ := b
    simp only at *
    refine ⟨n, h1, k, h4, st, h5, ?_⟩
    subst h2 h6 h7
    exact if_pos h3

theorem admitAction_some {a : ActionFields} {data : List Byte} {x : Option Op} :
    admitAction a data = some x ↔ a.Asks data x := by
  cases a with
  | absent =>
    cases x <;> simp [admitAction, ActionFields.Asks]
  | unlisted k => cases x <;> simp [admitAction, ActionFields.Asks]
  | transfer f =>
    simp only [admitAction, Option.bind_eq_bind, Option.bind_eq_some_iff, admitTransfer_some]
    cases x with
    | none => simp [ActionFields.Asks]
    | some op =>
      simp only [ActionFields.Asks, RequestBody.Asks]
      constructor
      · rintro ⟨op', h1, h⟩
        obtain ⟨hc, h⟩ := Option.ite_none_right_eq_some.mp h
        simp only [Option.some.injEq] at h; subst h
        refine ⟨h1, ?_⟩
        split
        · exact hc
        · trivial
      · rintro ⟨h1, h2⟩
        refine ⟨op, h1, if_pos ?_⟩
        unfold Op.inlineInBytes
        split
        · simpa using h2
        · omega
  | read c =>
    cases x with
    | none => simp [admitAction, ActionFields.Asks]
    | some op =>
      cases op <;> simp [admitAction, ActionFields.Asks, RequestBody.Asks, admitRead_some]
  | write c v =>
    cases x with
    | none => simp [admitAction, ActionFields.Asks]
    | some op =>
      cases op <;> simp [admitAction, ActionFields.Asks, RequestBody.Asks, admitWrite_some, and_assoc]
      grind
  | modify c y o =>
    cases x with
    | none => simp [admitAction, ActionFields.Asks]
    | some op =>
      cases op <;> simp [admitAction, ActionFields.Asks, RequestBody.Asks, admitModify_some, and_assoc]
      grind
  | scan f =>
    cases x with
    | none => simp [admitAction, ActionFields.Asks]
    | some op =>
      cases op <;> simp [admitAction, ActionFields.Asks, RequestBody.Asks, admitScan_some, ScanFields.Asks]

theorem checkLine_some {f : LineFields} {data : List Byte} {n : Fin 8} {c : LineConfig} :
    checkLine f data = some (n, c) ↔ f.Asks data n c := by
  unfold checkLine
  simp only [Option.bind_eq_bind, Option.bind_eq_some_iff, finOf_some, lineRoleOf_some, lineModeOf_some,
    serviceOf_some, admitAction_some]
  constructor
  · rintro ⟨m, h1, r, h2, mo, h3, sv, h4, a, h5, h⟩
    obtain ⟨hc, h⟩ := Option.ite_none_left_eq_some.mp h
    simp only [Option.some.injEq, Prod.mk.injEq] at h
    obtain ⟨rfl, rfl⟩ := h
    refine ⟨h1, h2, h3, h4, h5, ?_, ?_, ?_⟩
    · intro hr hm; cases sv
      · rfl
      · exact absurd (.inl ⟨hr, hm, rfl⟩) hc
    · intro hr; cases mo
      · rfl
      · exact absurd (.inr (.inl ⟨hr, rfl⟩)) hc
    · intro hr; cases a
      · rfl
      · exact absurd (.inr (.inr ⟨hr, by simp⟩)) hc
  · rintro ⟨h1, h2, h3, h4, h5, h6, h7, h8⟩
    obtain ⟨r, mo, sv, a⟩ := c
    simp only at *
    refine ⟨n, h1, r, h2, mo, h3, sv, h4, a, h5, if_neg ?_⟩
    rintro (⟨hr, hm, hs⟩ | ⟨hr, hm⟩ | ⟨hr, ha⟩)
    · have := h6 hr hm; simp [this] at hs
    · have := h7 hr; simp [this] at hm
    · exact ha (h8 hr)

theorem checkWatchSlot_some {f : WatchSlotFields} {x : Option WatchEntry} :
    checkWatchSlot f = some x ↔ f.Asks x := by
  unfold checkWatchSlot
  simp only [Option.bind_eq_bind, Option.bind_eq_some_iff, boolOf_some]
  constructor
  · rintro ⟨v, h1, h⟩
    cases v
    · simp at h; subst h; exact h1
    · simp only [if_true, Option.bind_eq_some_iff, boolOf_some, checkCardSide_some] at h
      obtain ⟨k, h2, r, h3, h⟩ := h
      obtain ⟨hc, h⟩ := Option.ite_none_right_eq_some.mp h
      simp only [Option.some.injEq] at h; subst h
      exact ⟨h1, h2, rfl, inWidth_iff.mp hc, h3⟩
  · intro h
    cases x with
    | none => exact ⟨false, h, rfl⟩
    | some e =>
      obtain ⟨h1, h2, h3, h4, h5⟩ := h
      refine ⟨true, h1, ?_⟩
      simp only [if_true, Option.bind_eq_some_iff, boolOf_some, checkCardSide_some]
      exact ⟨_, h2, e.report, h5, by rw [h3, if_pos (inWidth_iff.mpr h4)]⟩

theorem checkWatch_some {f : WatchFields} {c : WatchConfig} : checkWatch f = some c ↔ f.Asks c := by
  unfold checkWatch
  simp only [Option.bind_eq_bind, Option.bind_eq_some_iff, watchModeOf_some, triggerOf_some]
  constructor
  · rintro ⟨m, h1, t, h2, h⟩
    obtain ⟨hc, h⟩ := Option.ite_none_right_eq_some.mp h
    simp only [Option.some.injEq] at h; subst h
    refine ⟨h1, rfl, h2, fun i => ?_⟩
    have hi := List.all_eq_true.mp hc i (List.mem_finRange i)
    obtain ⟨x, hx⟩ := Option.isSome_iff_exists.mp hi
    have hx' : checkWatchSlot f.slots[i.val] = some x := hx
    simp only [Vector.getElem_ofFn]
    have : checkWatchSlot f.slots[i] = some x := hx
    rw [this]; exact checkWatchSlot_some.mp hx'
  · rintro ⟨h1, h2, h3, h4⟩
    refine ⟨c.mode, h1, c.trigger, h3, ?_⟩
    have e : ∀ i : Fin 8, checkWatchSlot f.slots[i] = some c.slots[i.val] := fun i =>
      checkWatchSlot_some.mpr (h4 i)
    rw [if_pos (List.all_eq_true.mpr fun i _ => by simp only [e i, Option.isSome_some])]
    simp only [Option.some.injEq]
    obtain ⟨mo, iv, tr, sl⟩ := c
    simp only at *
    subst h2
    congr 1
    ext i hi : 1
    simp only [Vector.getElem_ofFn, e, Option.join_some]

end Sys2Proof.Machine
end

