-- ==== Sys2Proof/Laws/State.lean ====
section
/-! SUPPORT. One lemma for each field of the state and each update: an update writes its own part and no other. -/

namespace Sys2Proof.Machine

@[simp] theorem State.pending_setPending (s : State) (x : List Instr) : (s.setPending x).pending = x := rfl
@[simp] theorem State.link_setPending (s : State) (x : List Instr) : (s.setPending x).link = s.link := rfl
@[simp] theorem State.windows_setPending (s : State) (x : List Instr) : (s.setPending x).windows = s.windows := rfl
@[simp] theorem State.bus_setPending (s : State) (x : List Instr) : (s.setPending x).bus = s.bus := rfl
@[simp] theorem State.sfault_setPending (s : State) (x : List Instr) : (s.setPending x).sfault = s.sfault := rfl
@[simp] theorem State.arbiter_setPending (s : State) (x : List Instr) : (s.setPending x).arbiter = s.arbiter := rfl
@[simp] theorem State.refresh_setPending (s : State) (x : List Instr) : (s.setPending x).refresh = s.refresh := rfl
@[simp] theorem State.sreset_setPending (s : State) (x : List Instr) : (s.setPending x).sreset = s.sreset := rfl
@[simp] theorem State.mem_setPending (s : State) (x : List Instr) : (s.setPending x).mem = s.mem := rfl
@[simp] theorem State.port_setPending (s : State) (x : List Instr) : (s.setPending x).port = s.port := rfl
@[simp] theorem State.queue_setPending (s : State) (x : List Instr) : (s.setPending x).queue = s.queue := rfl
@[simp] theorem State.engine_setPending (s : State) (x : List Instr) : (s.setPending x).engine = s.engine := rfl
@[simp] theorem State.channels_setPending (s : State) (x : List Instr) : (s.setPending x).channels = s.channels := rfl
@[simp] theorem State.lines_setPending (s : State) (x : List Instr) : (s.setPending x).lines = s.lines := rfl
@[simp] theorem State.watch_setPending (s : State) (x : List Instr) : (s.setPending x).watch = s.watch := rfl
@[simp] theorem State.notices_setPending (s : State) (x : List Instr) : (s.setPending x).notices = s.notices := rfl
@[simp] theorem State.free_setPending (s : State) (x : List Instr) : (s.setPending x).free = s.free := rfl

@[simp] theorem State.pending_setLink (s : State) (x : Link) : (s.setLink x).pending = s.pending := rfl
@[simp] theorem State.link_setLink (s : State) (x : Link) : (s.setLink x).link = x := rfl
@[simp] theorem State.windows_setLink (s : State) (x : Link) : (s.setLink x).windows = s.windows := rfl
@[simp] theorem State.bus_setLink (s : State) (x : Link) : (s.setLink x).bus = s.bus := rfl
@[simp] theorem State.sfault_setLink (s : State) (x : Link) : (s.setLink x).sfault = s.sfault := rfl
@[simp] theorem State.arbiter_setLink (s : State) (x : Link) : (s.setLink x).arbiter = s.arbiter := rfl
@[simp] theorem State.refresh_setLink (s : State) (x : Link) : (s.setLink x).refresh = s.refresh := rfl
@[simp] theorem State.sreset_setLink (s : State) (x : Link) : (s.setLink x).sreset = s.sreset := rfl
@[simp] theorem State.mem_setLink (s : State) (x : Link) : (s.setLink x).mem = s.mem := rfl
@[simp] theorem State.port_setLink (s : State) (x : Link) : (s.setLink x).port = s.port := rfl
@[simp] theorem State.queue_setLink (s : State) (x : Link) : (s.setLink x).queue = s.queue := rfl
@[simp] theorem State.engine_setLink (s : State) (x : Link) : (s.setLink x).engine = s.engine := rfl
@[simp] theorem State.channels_setLink (s : State) (x : Link) : (s.setLink x).channels = s.channels := rfl
@[simp] theorem State.lines_setLink (s : State) (x : Link) : (s.setLink x).lines = s.lines := rfl
@[simp] theorem State.watch_setLink (s : State) (x : Link) : (s.setLink x).watch = s.watch := rfl
@[simp] theorem State.notices_setLink (s : State) (x : Link) : (s.setLink x).notices = s.notices := rfl
@[simp] theorem State.free_setLink (s : State) (x : Link) : (s.setLink x).free = s.free := rfl

@[simp] theorem State.pending_setWindows (s : State) (x : Vector (Option Window) 16) : (s.setWindows x).pending = s.pending := rfl
@[simp] theorem State.link_setWindows (s : State) (x : Vector (Option Window) 16) : (s.setWindows x).link = s.link := rfl
@[simp] theorem State.windows_setWindows (s : State) (x : Vector (Option Window) 16) : (s.setWindows x).windows = x := rfl
@[simp] theorem State.bus_setWindows (s : State) (x : Vector (Option Window) 16) : (s.setWindows x).bus = s.bus := rfl
@[simp] theorem State.sfault_setWindows (s : State) (x : Vector (Option Window) 16) : (s.setWindows x).sfault = s.sfault := rfl
@[simp] theorem State.arbiter_setWindows (s : State) (x : Vector (Option Window) 16) : (s.setWindows x).arbiter = s.arbiter := rfl
@[simp] theorem State.refresh_setWindows (s : State) (x : Vector (Option Window) 16) : (s.setWindows x).refresh = s.refresh := rfl
@[simp] theorem State.sreset_setWindows (s : State) (x : Vector (Option Window) 16) : (s.setWindows x).sreset = s.sreset := rfl
@[simp] theorem State.mem_setWindows (s : State) (x : Vector (Option Window) 16) : (s.setWindows x).mem = s.mem := rfl
@[simp] theorem State.port_setWindows (s : State) (x : Vector (Option Window) 16) : (s.setWindows x).port = s.port := rfl
@[simp] theorem State.queue_setWindows (s : State) (x : Vector (Option Window) 16) : (s.setWindows x).queue = s.queue := rfl
@[simp] theorem State.engine_setWindows (s : State) (x : Vector (Option Window) 16) : (s.setWindows x).engine = s.engine := rfl
@[simp] theorem State.channels_setWindows (s : State) (x : Vector (Option Window) 16) : (s.setWindows x).channels = s.channels := rfl
@[simp] theorem State.lines_setWindows (s : State) (x : Vector (Option Window) 16) : (s.setWindows x).lines = s.lines := rfl
@[simp] theorem State.watch_setWindows (s : State) (x : Vector (Option Window) 16) : (s.setWindows x).watch = s.watch := rfl
@[simp] theorem State.notices_setWindows (s : State) (x : Vector (Option Window) 16) : (s.setWindows x).notices = s.notices := rfl
@[simp] theorem State.free_setWindows (s : State) (x : Vector (Option Window) 16) : (s.setWindows x).free = s.free := rfl

@[simp] theorem State.pending_setBus (s : State) (x : Bus) : (s.setBus x).pending = s.pending := rfl
@[simp] theorem State.link_setBus (s : State) (x : Bus) : (s.setBus x).link = s.link := rfl
@[simp] theorem State.windows_setBus (s : State) (x : Bus) : (s.setBus x).windows = s.windows := rfl
@[simp] theorem State.bus_setBus (s : State) (x : Bus) : (s.setBus x).bus = x := rfl
@[simp] theorem State.sfault_setBus (s : State) (x : Bus) : (s.setBus x).sfault = s.sfault := rfl
@[simp] theorem State.arbiter_setBus (s : State) (x : Bus) : (s.setBus x).arbiter = s.arbiter := rfl
@[simp] theorem State.refresh_setBus (s : State) (x : Bus) : (s.setBus x).refresh = s.refresh := rfl
@[simp] theorem State.sreset_setBus (s : State) (x : Bus) : (s.setBus x).sreset = s.sreset := rfl
@[simp] theorem State.mem_setBus (s : State) (x : Bus) : (s.setBus x).mem = s.mem := rfl
@[simp] theorem State.port_setBus (s : State) (x : Bus) : (s.setBus x).port = s.port := rfl
@[simp] theorem State.queue_setBus (s : State) (x : Bus) : (s.setBus x).queue = s.queue := rfl
@[simp] theorem State.engine_setBus (s : State) (x : Bus) : (s.setBus x).engine = s.engine := rfl
@[simp] theorem State.channels_setBus (s : State) (x : Bus) : (s.setBus x).channels = s.channels := rfl
@[simp] theorem State.lines_setBus (s : State) (x : Bus) : (s.setBus x).lines = s.lines := rfl
@[simp] theorem State.watch_setBus (s : State) (x : Bus) : (s.setBus x).watch = s.watch := rfl
@[simp] theorem State.notices_setBus (s : State) (x : Bus) : (s.setBus x).notices = s.notices := rfl
@[simp] theorem State.free_setBus (s : State) (x : Bus) : (s.setBus x).free = s.free := rfl

@[simp] theorem State.pending_setSfault (s : State) (x : Bool) : (s.setSfault x).pending = s.pending := rfl
@[simp] theorem State.link_setSfault (s : State) (x : Bool) : (s.setSfault x).link = s.link := rfl
@[simp] theorem State.windows_setSfault (s : State) (x : Bool) : (s.setSfault x).windows = s.windows := rfl
@[simp] theorem State.bus_setSfault (s : State) (x : Bool) : (s.setSfault x).bus = s.bus := rfl
@[simp] theorem State.sfault_setSfault (s : State) (x : Bool) : (s.setSfault x).sfault = x := rfl
@[simp] theorem State.arbiter_setSfault (s : State) (x : Bool) : (s.setSfault x).arbiter = s.arbiter := rfl
@[simp] theorem State.refresh_setSfault (s : State) (x : Bool) : (s.setSfault x).refresh = s.refresh := rfl
@[simp] theorem State.sreset_setSfault (s : State) (x : Bool) : (s.setSfault x).sreset = s.sreset := rfl
@[simp] theorem State.mem_setSfault (s : State) (x : Bool) : (s.setSfault x).mem = s.mem := rfl
@[simp] theorem State.port_setSfault (s : State) (x : Bool) : (s.setSfault x).port = s.port := rfl
@[simp] theorem State.queue_setSfault (s : State) (x : Bool) : (s.setSfault x).queue = s.queue := rfl
@[simp] theorem State.engine_setSfault (s : State) (x : Bool) : (s.setSfault x).engine = s.engine := rfl
@[simp] theorem State.channels_setSfault (s : State) (x : Bool) : (s.setSfault x).channels = s.channels := rfl
@[simp] theorem State.lines_setSfault (s : State) (x : Bool) : (s.setSfault x).lines = s.lines := rfl
@[simp] theorem State.watch_setSfault (s : State) (x : Bool) : (s.setSfault x).watch = s.watch := rfl
@[simp] theorem State.notices_setSfault (s : State) (x : Bool) : (s.setSfault x).notices = s.notices := rfl
@[simp] theorem State.free_setSfault (s : State) (x : Bool) : (s.setSfault x).free = s.free := rfl

@[simp] theorem State.pending_setArbiter (s : State) (x : Arbiter) : (s.setArbiter x).pending = s.pending := rfl
@[simp] theorem State.link_setArbiter (s : State) (x : Arbiter) : (s.setArbiter x).link = s.link := rfl
@[simp] theorem State.windows_setArbiter (s : State) (x : Arbiter) : (s.setArbiter x).windows = s.windows := rfl
@[simp] theorem State.bus_setArbiter (s : State) (x : Arbiter) : (s.setArbiter x).bus = s.bus := rfl
@[simp] theorem State.sfault_setArbiter (s : State) (x : Arbiter) : (s.setArbiter x).sfault = s.sfault := rfl
@[simp] theorem State.arbiter_setArbiter (s : State) (x : Arbiter) : (s.setArbiter x).arbiter = x := rfl
@[simp] theorem State.refresh_setArbiter (s : State) (x : Arbiter) : (s.setArbiter x).refresh = s.refresh := rfl
@[simp] theorem State.sreset_setArbiter (s : State) (x : Arbiter) : (s.setArbiter x).sreset = s.sreset := rfl
@[simp] theorem State.mem_setArbiter (s : State) (x : Arbiter) : (s.setArbiter x).mem = s.mem := rfl
@[simp] theorem State.port_setArbiter (s : State) (x : Arbiter) : (s.setArbiter x).port = s.port := rfl
@[simp] theorem State.queue_setArbiter (s : State) (x : Arbiter) : (s.setArbiter x).queue = s.queue := rfl
@[simp] theorem State.engine_setArbiter (s : State) (x : Arbiter) : (s.setArbiter x).engine = s.engine := rfl
@[simp] theorem State.channels_setArbiter (s : State) (x : Arbiter) : (s.setArbiter x).channels = s.channels := rfl
@[simp] theorem State.lines_setArbiter (s : State) (x : Arbiter) : (s.setArbiter x).lines = s.lines := rfl
@[simp] theorem State.watch_setArbiter (s : State) (x : Arbiter) : (s.setArbiter x).watch = s.watch := rfl
@[simp] theorem State.notices_setArbiter (s : State) (x : Arbiter) : (s.setArbiter x).notices = s.notices := rfl
@[simp] theorem State.free_setArbiter (s : State) (x : Arbiter) : (s.setArbiter x).free = s.free := rfl

@[simp] theorem State.pending_setRefresh (s : State) (x : Refresh) : (s.setRefresh x).pending = s.pending := rfl
@[simp] theorem State.link_setRefresh (s : State) (x : Refresh) : (s.setRefresh x).link = s.link := rfl
@[simp] theorem State.windows_setRefresh (s : State) (x : Refresh) : (s.setRefresh x).windows = s.windows := rfl
@[simp] theorem State.bus_setRefresh (s : State) (x : Refresh) : (s.setRefresh x).bus = s.bus := rfl
@[simp] theorem State.sfault_setRefresh (s : State) (x : Refresh) : (s.setRefresh x).sfault = s.sfault := rfl
@[simp] theorem State.arbiter_setRefresh (s : State) (x : Refresh) : (s.setRefresh x).arbiter = s.arbiter := rfl
@[simp] theorem State.refresh_setRefresh (s : State) (x : Refresh) : (s.setRefresh x).refresh = x := rfl
@[simp] theorem State.sreset_setRefresh (s : State) (x : Refresh) : (s.setRefresh x).sreset = s.sreset := rfl
@[simp] theorem State.mem_setRefresh (s : State) (x : Refresh) : (s.setRefresh x).mem = s.mem := rfl
@[simp] theorem State.port_setRefresh (s : State) (x : Refresh) : (s.setRefresh x).port = s.port := rfl
@[simp] theorem State.queue_setRefresh (s : State) (x : Refresh) : (s.setRefresh x).queue = s.queue := rfl
@[simp] theorem State.engine_setRefresh (s : State) (x : Refresh) : (s.setRefresh x).engine = s.engine := rfl
@[simp] theorem State.channels_setRefresh (s : State) (x : Refresh) : (s.setRefresh x).channels = s.channels := rfl
@[simp] theorem State.lines_setRefresh (s : State) (x : Refresh) : (s.setRefresh x).lines = s.lines := rfl
@[simp] theorem State.watch_setRefresh (s : State) (x : Refresh) : (s.setRefresh x).watch = s.watch := rfl
@[simp] theorem State.notices_setRefresh (s : State) (x : Refresh) : (s.setRefresh x).notices = s.notices := rfl
@[simp] theorem State.free_setRefresh (s : State) (x : Refresh) : (s.setRefresh x).free = s.free := rfl

@[simp] theorem State.pending_setSreset (s : State) (x : SReset) : (s.setSreset x).pending = s.pending := rfl
@[simp] theorem State.link_setSreset (s : State) (x : SReset) : (s.setSreset x).link = s.link := rfl
@[simp] theorem State.windows_setSreset (s : State) (x : SReset) : (s.setSreset x).windows = s.windows := rfl
@[simp] theorem State.bus_setSreset (s : State) (x : SReset) : (s.setSreset x).bus = s.bus := rfl
@[simp] theorem State.sfault_setSreset (s : State) (x : SReset) : (s.setSreset x).sfault = s.sfault := rfl
@[simp] theorem State.arbiter_setSreset (s : State) (x : SReset) : (s.setSreset x).arbiter = s.arbiter := rfl
@[simp] theorem State.refresh_setSreset (s : State) (x : SReset) : (s.setSreset x).refresh = s.refresh := rfl
@[simp] theorem State.sreset_setSreset (s : State) (x : SReset) : (s.setSreset x).sreset = x := rfl
@[simp] theorem State.mem_setSreset (s : State) (x : SReset) : (s.setSreset x).mem = s.mem := rfl
@[simp] theorem State.port_setSreset (s : State) (x : SReset) : (s.setSreset x).port = s.port := rfl
@[simp] theorem State.queue_setSreset (s : State) (x : SReset) : (s.setSreset x).queue = s.queue := rfl
@[simp] theorem State.engine_setSreset (s : State) (x : SReset) : (s.setSreset x).engine = s.engine := rfl
@[simp] theorem State.channels_setSreset (s : State) (x : SReset) : (s.setSreset x).channels = s.channels := rfl
@[simp] theorem State.lines_setSreset (s : State) (x : SReset) : (s.setSreset x).lines = s.lines := rfl
@[simp] theorem State.watch_setSreset (s : State) (x : SReset) : (s.setSreset x).watch = s.watch := rfl
@[simp] theorem State.notices_setSreset (s : State) (x : SReset) : (s.setSreset x).notices = s.notices := rfl
@[simp] theorem State.free_setSreset (s : State) (x : SReset) : (s.setSreset x).free = s.free := rfl

@[simp] theorem State.pending_setMem (s : State) (x : Mem) : (s.setMem x).pending = s.pending := rfl
@[simp] theorem State.link_setMem (s : State) (x : Mem) : (s.setMem x).link = s.link := rfl
@[simp] theorem State.windows_setMem (s : State) (x : Mem) : (s.setMem x).windows = s.windows := rfl
@[simp] theorem State.bus_setMem (s : State) (x : Mem) : (s.setMem x).bus = s.bus := rfl
@[simp] theorem State.sfault_setMem (s : State) (x : Mem) : (s.setMem x).sfault = s.sfault := rfl
@[simp] theorem State.arbiter_setMem (s : State) (x : Mem) : (s.setMem x).arbiter = s.arbiter := rfl
@[simp] theorem State.refresh_setMem (s : State) (x : Mem) : (s.setMem x).refresh = s.refresh := rfl
@[simp] theorem State.sreset_setMem (s : State) (x : Mem) : (s.setMem x).sreset = s.sreset := rfl
@[simp] theorem State.mem_setMem (s : State) (x : Mem) : (s.setMem x).mem = x := rfl
@[simp] theorem State.port_setMem (s : State) (x : Mem) : (s.setMem x).port = s.port := rfl
@[simp] theorem State.queue_setMem (s : State) (x : Mem) : (s.setMem x).queue = s.queue := rfl
@[simp] theorem State.engine_setMem (s : State) (x : Mem) : (s.setMem x).engine = s.engine := rfl
@[simp] theorem State.channels_setMem (s : State) (x : Mem) : (s.setMem x).channels = s.channels := rfl
@[simp] theorem State.lines_setMem (s : State) (x : Mem) : (s.setMem x).lines = s.lines := rfl
@[simp] theorem State.watch_setMem (s : State) (x : Mem) : (s.setMem x).watch = s.watch := rfl
@[simp] theorem State.notices_setMem (s : State) (x : Mem) : (s.setMem x).notices = s.notices := rfl
@[simp] theorem State.free_setMem (s : State) (x : Mem) : (s.setMem x).free = s.free := rfl

@[simp] theorem State.pending_setPort (s : State) (x : Port) : (s.setPort x).pending = s.pending := rfl
@[simp] theorem State.link_setPort (s : State) (x : Port) : (s.setPort x).link = s.link := rfl
@[simp] theorem State.windows_setPort (s : State) (x : Port) : (s.setPort x).windows = s.windows := rfl
@[simp] theorem State.bus_setPort (s : State) (x : Port) : (s.setPort x).bus = s.bus := rfl
@[simp] theorem State.sfault_setPort (s : State) (x : Port) : (s.setPort x).sfault = s.sfault := rfl
@[simp] theorem State.arbiter_setPort (s : State) (x : Port) : (s.setPort x).arbiter = s.arbiter := rfl
@[simp] theorem State.refresh_setPort (s : State) (x : Port) : (s.setPort x).refresh = s.refresh := rfl
@[simp] theorem State.sreset_setPort (s : State) (x : Port) : (s.setPort x).sreset = s.sreset := rfl
@[simp] theorem State.mem_setPort (s : State) (x : Port) : (s.setPort x).mem = s.mem := rfl
@[simp] theorem State.port_setPort (s : State) (x : Port) : (s.setPort x).port = x := rfl
@[simp] theorem State.queue_setPort (s : State) (x : Port) : (s.setPort x).queue = s.queue := rfl
@[simp] theorem State.engine_setPort (s : State) (x : Port) : (s.setPort x).engine = s.engine := rfl
@[simp] theorem State.channels_setPort (s : State) (x : Port) : (s.setPort x).channels = s.channels := rfl
@[simp] theorem State.lines_setPort (s : State) (x : Port) : (s.setPort x).lines = s.lines := rfl
@[simp] theorem State.watch_setPort (s : State) (x : Port) : (s.setPort x).watch = s.watch := rfl
@[simp] theorem State.notices_setPort (s : State) (x : Port) : (s.setPort x).notices = s.notices := rfl
@[simp] theorem State.free_setPort (s : State) (x : Port) : (s.setPort x).free = s.free := rfl

@[simp] theorem State.pending_setQueue (s : State) (x : Queue) : (s.setQueue x).pending = s.pending := rfl
@[simp] theorem State.link_setQueue (s : State) (x : Queue) : (s.setQueue x).link = s.link := rfl
@[simp] theorem State.windows_setQueue (s : State) (x : Queue) : (s.setQueue x).windows = s.windows := rfl
@[simp] theorem State.bus_setQueue (s : State) (x : Queue) : (s.setQueue x).bus = s.bus := rfl
@[simp] theorem State.sfault_setQueue (s : State) (x : Queue) : (s.setQueue x).sfault = s.sfault := rfl
@[simp] theorem State.arbiter_setQueue (s : State) (x : Queue) : (s.setQueue x).arbiter = s.arbiter := rfl
@[simp] theorem State.refresh_setQueue (s : State) (x : Queue) : (s.setQueue x).refresh = s.refresh := rfl
@[simp] theorem State.sreset_setQueue (s : State) (x : Queue) : (s.setQueue x).sreset = s.sreset := rfl
@[simp] theorem State.mem_setQueue (s : State) (x : Queue) : (s.setQueue x).mem = s.mem := rfl
@[simp] theorem State.port_setQueue (s : State) (x : Queue) : (s.setQueue x).port = s.port := rfl
@[simp] theorem State.queue_setQueue (s : State) (x : Queue) : (s.setQueue x).queue = x := rfl
@[simp] theorem State.engine_setQueue (s : State) (x : Queue) : (s.setQueue x).engine = s.engine := rfl
@[simp] theorem State.channels_setQueue (s : State) (x : Queue) : (s.setQueue x).channels = s.channels := rfl
@[simp] theorem State.lines_setQueue (s : State) (x : Queue) : (s.setQueue x).lines = s.lines := rfl
@[simp] theorem State.watch_setQueue (s : State) (x : Queue) : (s.setQueue x).watch = s.watch := rfl
@[simp] theorem State.notices_setQueue (s : State) (x : Queue) : (s.setQueue x).notices = s.notices := rfl
@[simp] theorem State.free_setQueue (s : State) (x : Queue) : (s.setQueue x).free = s.free := rfl

@[simp] theorem State.pending_setEngine (s : State) (x : Engine) : (s.setEngine x).pending = s.pending := rfl
@[simp] theorem State.link_setEngine (s : State) (x : Engine) : (s.setEngine x).link = s.link := rfl
@[simp] theorem State.windows_setEngine (s : State) (x : Engine) : (s.setEngine x).windows = s.windows := rfl
@[simp] theorem State.bus_setEngine (s : State) (x : Engine) : (s.setEngine x).bus = s.bus := rfl
@[simp] theorem State.sfault_setEngine (s : State) (x : Engine) : (s.setEngine x).sfault = s.sfault := rfl
@[simp] theorem State.arbiter_setEngine (s : State) (x : Engine) : (s.setEngine x).arbiter = s.arbiter := rfl
@[simp] theorem State.refresh_setEngine (s : State) (x : Engine) : (s.setEngine x).refresh = s.refresh := rfl
@[simp] theorem State.sreset_setEngine (s : State) (x : Engine) : (s.setEngine x).sreset = s.sreset := rfl
@[simp] theorem State.mem_setEngine (s : State) (x : Engine) : (s.setEngine x).mem = s.mem := rfl
@[simp] theorem State.port_setEngine (s : State) (x : Engine) : (s.setEngine x).port = s.port := rfl
@[simp] theorem State.queue_setEngine (s : State) (x : Engine) : (s.setEngine x).queue = s.queue := rfl
@[simp] theorem State.engine_setEngine (s : State) (x : Engine) : (s.setEngine x).engine = x := rfl
@[simp] theorem State.channels_setEngine (s : State) (x : Engine) : (s.setEngine x).channels = s.channels := rfl
@[simp] theorem State.lines_setEngine (s : State) (x : Engine) : (s.setEngine x).lines = s.lines := rfl
@[simp] theorem State.watch_setEngine (s : State) (x : Engine) : (s.setEngine x).watch = s.watch := rfl
@[simp] theorem State.notices_setEngine (s : State) (x : Engine) : (s.setEngine x).notices = s.notices := rfl
@[simp] theorem State.free_setEngine (s : State) (x : Engine) : (s.setEngine x).free = s.free := rfl

@[simp] theorem State.pending_setChannels (s : State) (x : Vector Channel 4) : (s.setChannels x).pending = s.pending := rfl
@[simp] theorem State.link_setChannels (s : State) (x : Vector Channel 4) : (s.setChannels x).link = s.link := rfl
@[simp] theorem State.windows_setChannels (s : State) (x : Vector Channel 4) : (s.setChannels x).windows = s.windows := rfl
@[simp] theorem State.bus_setChannels (s : State) (x : Vector Channel 4) : (s.setChannels x).bus = s.bus := rfl
@[simp] theorem State.sfault_setChannels (s : State) (x : Vector Channel 4) : (s.setChannels x).sfault = s.sfault := rfl
@[simp] theorem State.arbiter_setChannels (s : State) (x : Vector Channel 4) : (s.setChannels x).arbiter = s.arbiter := rfl
@[simp] theorem State.refresh_setChannels (s : State) (x : Vector Channel 4) : (s.setChannels x).refresh = s.refresh := rfl
@[simp] theorem State.sreset_setChannels (s : State) (x : Vector Channel 4) : (s.setChannels x).sreset = s.sreset := rfl
@[simp] theorem State.mem_setChannels (s : State) (x : Vector Channel 4) : (s.setChannels x).mem = s.mem := rfl
@[simp] theorem State.port_setChannels (s : State) (x : Vector Channel 4) : (s.setChannels x).port = s.port := rfl
@[simp] theorem State.queue_setChannels (s : State) (x : Vector Channel 4) : (s.setChannels x).queue = s.queue := rfl
@[simp] theorem State.engine_setChannels (s : State) (x : Vector Channel 4) : (s.setChannels x).engine = s.engine := rfl
@[simp] theorem State.channels_setChannels (s : State) (x : Vector Channel 4) : (s.setChannels x).channels = x := rfl
@[simp] theorem State.lines_setChannels (s : State) (x : Vector Channel 4) : (s.setChannels x).lines = s.lines := rfl
@[simp] theorem State.watch_setChannels (s : State) (x : Vector Channel 4) : (s.setChannels x).watch = s.watch := rfl
@[simp] theorem State.notices_setChannels (s : State) (x : Vector Channel 4) : (s.setChannels x).notices = s.notices := rfl
@[simp] theorem State.free_setChannels (s : State) (x : Vector Channel 4) : (s.setChannels x).free = s.free := rfl

@[simp] theorem State.pending_setLines (s : State) (x : Vector Line 8) : (s.setLines x).pending = s.pending := rfl
@[simp] theorem State.link_setLines (s : State) (x : Vector Line 8) : (s.setLines x).link = s.link := rfl
@[simp] theorem State.windows_setLines (s : State) (x : Vector Line 8) : (s.setLines x).windows = s.windows := rfl
@[simp] theorem State.bus_setLines (s : State) (x : Vector Line 8) : (s.setLines x).bus = s.bus := rfl
@[simp] theorem State.sfault_setLines (s : State) (x : Vector Line 8) : (s.setLines x).sfault = s.sfault := rfl
@[simp] theorem State.arbiter_setLines (s : State) (x : Vector Line 8) : (s.setLines x).arbiter = s.arbiter := rfl
@[simp] theorem State.refresh_setLines (s : State) (x : Vector Line 8) : (s.setLines x).refresh = s.refresh := rfl
@[simp] theorem State.sreset_setLines (s : State) (x : Vector Line 8) : (s.setLines x).sreset = s.sreset := rfl
@[simp] theorem State.mem_setLines (s : State) (x : Vector Line 8) : (s.setLines x).mem = s.mem := rfl
@[simp] theorem State.port_setLines (s : State) (x : Vector Line 8) : (s.setLines x).port = s.port := rfl
@[simp] theorem State.queue_setLines (s : State) (x : Vector Line 8) : (s.setLines x).queue = s.queue := rfl
@[simp] theorem State.engine_setLines (s : State) (x : Vector Line 8) : (s.setLines x).engine = s.engine := rfl
@[simp] theorem State.channels_setLines (s : State) (x : Vector Line 8) : (s.setLines x).channels = s.channels := rfl
@[simp] theorem State.lines_setLines (s : State) (x : Vector Line 8) : (s.setLines x).lines = x := rfl
@[simp] theorem State.watch_setLines (s : State) (x : Vector Line 8) : (s.setLines x).watch = s.watch := rfl
@[simp] theorem State.notices_setLines (s : State) (x : Vector Line 8) : (s.setLines x).notices = s.notices := rfl
@[simp] theorem State.free_setLines (s : State) (x : Vector Line 8) : (s.setLines x).free = s.free := rfl

@[simp] theorem State.pending_setWatch (s : State) (x : Watch) : (s.setWatch x).pending = s.pending := rfl
@[simp] theorem State.link_setWatch (s : State) (x : Watch) : (s.setWatch x).link = s.link := rfl
@[simp] theorem State.windows_setWatch (s : State) (x : Watch) : (s.setWatch x).windows = s.windows := rfl
@[simp] theorem State.bus_setWatch (s : State) (x : Watch) : (s.setWatch x).bus = s.bus := rfl
@[simp] theorem State.sfault_setWatch (s : State) (x : Watch) : (s.setWatch x).sfault = s.sfault := rfl
@[simp] theorem State.arbiter_setWatch (s : State) (x : Watch) : (s.setWatch x).arbiter = s.arbiter := rfl
@[simp] theorem State.refresh_setWatch (s : State) (x : Watch) : (s.setWatch x).refresh = s.refresh := rfl
@[simp] theorem State.sreset_setWatch (s : State) (x : Watch) : (s.setWatch x).sreset = s.sreset := rfl
@[simp] theorem State.mem_setWatch (s : State) (x : Watch) : (s.setWatch x).mem = s.mem := rfl
@[simp] theorem State.port_setWatch (s : State) (x : Watch) : (s.setWatch x).port = s.port := rfl
@[simp] theorem State.queue_setWatch (s : State) (x : Watch) : (s.setWatch x).queue = s.queue := rfl
@[simp] theorem State.engine_setWatch (s : State) (x : Watch) : (s.setWatch x).engine = s.engine := rfl
@[simp] theorem State.channels_setWatch (s : State) (x : Watch) : (s.setWatch x).channels = s.channels := rfl
@[simp] theorem State.lines_setWatch (s : State) (x : Watch) : (s.setWatch x).lines = s.lines := rfl
@[simp] theorem State.watch_setWatch (s : State) (x : Watch) : (s.setWatch x).watch = x := rfl
@[simp] theorem State.notices_setWatch (s : State) (x : Watch) : (s.setWatch x).notices = s.notices := rfl
@[simp] theorem State.free_setWatch (s : State) (x : Watch) : (s.setWatch x).free = s.free := rfl

@[simp] theorem State.pending_setNotices (s : State) (x : List Notice) : (s.setNotices x).pending = s.pending := rfl
@[simp] theorem State.link_setNotices (s : State) (x : List Notice) : (s.setNotices x).link = s.link := rfl
@[simp] theorem State.windows_setNotices (s : State) (x : List Notice) : (s.setNotices x).windows = s.windows := rfl
@[simp] theorem State.bus_setNotices (s : State) (x : List Notice) : (s.setNotices x).bus = s.bus := rfl
@[simp] theorem State.sfault_setNotices (s : State) (x : List Notice) : (s.setNotices x).sfault = s.sfault := rfl
@[simp] theorem State.arbiter_setNotices (s : State) (x : List Notice) : (s.setNotices x).arbiter = s.arbiter := rfl
@[simp] theorem State.refresh_setNotices (s : State) (x : List Notice) : (s.setNotices x).refresh = s.refresh := rfl
@[simp] theorem State.sreset_setNotices (s : State) (x : List Notice) : (s.setNotices x).sreset = s.sreset := rfl
@[simp] theorem State.mem_setNotices (s : State) (x : List Notice) : (s.setNotices x).mem = s.mem := rfl
@[simp] theorem State.port_setNotices (s : State) (x : List Notice) : (s.setNotices x).port = s.port := rfl
@[simp] theorem State.queue_setNotices (s : State) (x : List Notice) : (s.setNotices x).queue = s.queue := rfl
@[simp] theorem State.engine_setNotices (s : State) (x : List Notice) : (s.setNotices x).engine = s.engine := rfl
@[simp] theorem State.channels_setNotices (s : State) (x : List Notice) : (s.setNotices x).channels = s.channels := rfl
@[simp] theorem State.lines_setNotices (s : State) (x : List Notice) : (s.setNotices x).lines = s.lines := rfl
@[simp] theorem State.watch_setNotices (s : State) (x : List Notice) : (s.setNotices x).watch = s.watch := rfl
@[simp] theorem State.notices_setNotices (s : State) (x : List Notice) : (s.setNotices x).notices = x := rfl
@[simp] theorem State.free_setNotices (s : State) (x : List Notice) : (s.setNotices x).free = s.free := rfl

@[simp] theorem State.pending_setFree (s : State) (x : Nat) : (s.setFree x).pending = s.pending := rfl
@[simp] theorem State.link_setFree (s : State) (x : Nat) : (s.setFree x).link = s.link := rfl
@[simp] theorem State.windows_setFree (s : State) (x : Nat) : (s.setFree x).windows = s.windows := rfl
@[simp] theorem State.bus_setFree (s : State) (x : Nat) : (s.setFree x).bus = s.bus := rfl
@[simp] theorem State.sfault_setFree (s : State) (x : Nat) : (s.setFree x).sfault = s.sfault := rfl
@[simp] theorem State.arbiter_setFree (s : State) (x : Nat) : (s.setFree x).arbiter = s.arbiter := rfl
@[simp] theorem State.refresh_setFree (s : State) (x : Nat) : (s.setFree x).refresh = s.refresh := rfl
@[simp] theorem State.sreset_setFree (s : State) (x : Nat) : (s.setFree x).sreset = s.sreset := rfl
@[simp] theorem State.mem_setFree (s : State) (x : Nat) : (s.setFree x).mem = s.mem := rfl
@[simp] theorem State.port_setFree (s : State) (x : Nat) : (s.setFree x).port = s.port := rfl
@[simp] theorem State.queue_setFree (s : State) (x : Nat) : (s.setFree x).queue = s.queue := rfl
@[simp] theorem State.engine_setFree (s : State) (x : Nat) : (s.setFree x).engine = s.engine := rfl
@[simp] theorem State.channels_setFree (s : State) (x : Nat) : (s.setFree x).channels = s.channels := rfl
@[simp] theorem State.lines_setFree (s : State) (x : Nat) : (s.setFree x).lines = s.lines := rfl
@[simp] theorem State.watch_setFree (s : State) (x : Nat) : (s.setFree x).watch = s.watch := rfl
@[simp] theorem State.notices_setFree (s : State) (x : Nat) : (s.setFree x).notices = s.notices := rfl
@[simp] theorem State.free_setFree (s : State) (x : Nat) : (s.setFree x).free = x := rfl

end Sys2Proof.Machine
end

