-- ==== Sys2Proof/Laws/Keeps.lean ====
section
/-! SUPPORT. What the blocks' own activity leaves alone: `Keeps s t` says it once, and each shared operation up to a
block settling has one lemma that it keeps. -/

namespace Sys2Proof.Machine

/-- What happens to one entry of the queue: its tag and operation stay, and a finished one stays as it is. -/
structure EntryKept (e e' : Entry) : Prop where
  tag : e'.tag = e.tag
  op : e'.op = e.op
  finished : e.isFinished = true → e' = e

theorem EntryKept.refl (e : Entry) : EntryKept e e := ⟨rfl, rfl, fun _ => rfl⟩

theorem EntryKept.trans {a b c : Entry} (h : EntryKept a b) (k : EntryKept b c) : EntryKept a c where
  tag := k.tag.trans h.tag
  op := k.op.trans h.op
  finished f := by
    have := h.finished f
    subst this
    exact k.finished f

/-- Entry by entry, the queue is kept. -/
inductive EntriesKept : List Entry → List Entry → Prop where
  | nil : EntriesKept [] []
  | cons {a b : Entry} {l m : List Entry} (h : EntryKept a b) (k : EntriesKept l m) : EntriesKept (a :: l) (b :: m)

/-- The commands waiting, the window table, base memory and the link (but for the slot) are as before, every entry is
kept, and each promise about the blocks (R51, R55, R122, R154) holds after if it held before. -/
structure Keeps (s t : State) : Prop where
  pending : t.pending = s.pending
  windows : t.windows = s.windows
  mem : t.mem = s.mem
  link : ∃ x, t.link = { s.link with slot := x }
  entries : EntriesKept s.queue.entries t.queue.entries
  active : activeOk s.queue → activeOk t.queue
  notices : noticesOk s.notices → noticesOk t.notices
  channels : channelsOk s → channelsOk t

theorem EntriesKept.refl (l : List Entry) : EntriesKept l l := by
  induction l with
  | nil => exact .nil
  | cons a l ih => exact .cons (EntryKept.refl a) ih

theorem EntriesKept.trans {a b c : List Entry} (h : EntriesKept a b) (k : EntriesKept b c) :
    EntriesKept a c := by
  induction h generalizing c with
  | nil => cases k; exact .nil
  | cons h1 _ ih => cases k with | cons k1 k2 => exact .cons (h1.trans k1) (ih k2)

@[simp] theorem Keeps.refl (s : State) : Keeps s s :=
  ⟨rfl, rfl, rfl, ⟨s.link.slot, rfl⟩, EntriesKept.refl _, id, id, id⟩

theorem Keeps.trans {a b c : State} (h : Keeps a b) (k : Keeps b c) : Keeps a c where
  pending := k.pending.trans h.pending
  windows := k.windows.trans h.windows
  mem := k.mem.trans h.mem
  link := by
    obtain ⟨x, hx⟩ := h.link
    obtain ⟨y, hy⟩ := k.link
    exact ⟨y, by rw [hy, hx]⟩
  entries := EntriesKept.trans h.entries k.entries
  active := k.active ∘ h.active
  notices := k.notices ∘ h.notices
  channels := k.channels ∘ h.channels

/-! ## Updates -/

/-- A state that differs in nothing that `Keeps` speaks of. -/
theorem Keeps.same {a b : State} (hp : b.pending = a.pending) (hw : b.windows = a.windows) (hm : b.mem = a.mem)
    (hl : ∃ x, b.link = { a.link with slot := x }) (hq : b.queue = a.queue) (hn : b.notices = a.notices)
    (hc : b.channels = a.channels) : Keeps a b where
  pending := hp
  windows := hw
  mem := hm
  link := hl
  entries := hq ▸ EntriesKept.refl _
  active h := hq ▸ h
  notices h := hn ▸ h
  channels h n := by
    have := h n
    unfold State.channel at *
    rw [hc]; exact this

variable {s t : State}

@[simp] theorem Keeps.setBus (h : Keeps s t) (x : Bus) : Keeps s (t.setBus x) :=
  h.trans (.same rfl rfl rfl ⟨_, rfl⟩ rfl rfl rfl)
@[simp] theorem Keeps.setCycle (h : Keeps s t) (x : Option Cycle) : Keeps s (t.setCycle x) := h.setBus _
@[simp] theorem Keeps.setGroup (h : Keeps s t) (x : Option Group) : Keeps s (t.setGroup x) := h.setBus _
@[simp] theorem Keeps.setRecord (h : Keeps s t) (x : CycleRecord) : Keeps s (t.setRecord x) := h.setBus _
@[simp] theorem Keeps.setMaster (h : Keeps s t) (x : Option MasterCycle) : Keeps s (t.setMaster x) := h.setBus _
@[simp] theorem Keeps.setSfault (h : Keeps s t) (x : Bool) : Keeps s (t.setSfault x) :=
  h.trans (.same rfl rfl rfl ⟨_, rfl⟩ rfl rfl rfl)
@[simp] theorem Keeps.setArbiter (h : Keeps s t) (x : Arbiter) : Keeps s (t.setArbiter x) :=
  h.trans (.same rfl rfl rfl ⟨_, rfl⟩ rfl rfl rfl)
@[simp] theorem Keeps.setRefresh (h : Keeps s t) (x : Refresh) : Keeps s (t.setRefresh x) :=
  h.trans (.same rfl rfl rfl ⟨_, rfl⟩ rfl rfl rfl)
@[simp] theorem Keeps.setSreset (h : Keeps s t) (x : SReset) : Keeps s (t.setSreset x) :=
  h.trans (.same rfl rfl rfl ⟨_, rfl⟩ rfl rfl rfl)
@[simp] theorem Keeps.setPort (h : Keeps s t) (x : Port) : Keeps s (t.setPort x) :=
  h.trans (.same rfl rfl rfl ⟨_, rfl⟩ rfl rfl rfl)
@[simp] theorem Keeps.setEngine (h : Keeps s t) (x : Engine) : Keeps s (t.setEngine x) :=
  h.trans (.same rfl rfl rfl ⟨_, rfl⟩ rfl rfl rfl)
@[simp] theorem Keeps.setElement (h : Keeps s t) (x : Option Element) : Keeps s (t.setElement x) := h.setEngine _
@[simp] theorem Keeps.setEngineState (h : Keeps s t) (x : EngineState) : Keeps s (t.setEngineState x) := h.setEngine _
@[simp] theorem Keeps.setLines (h : Keeps s t) (x : Vector Line 8) : Keeps s (t.setLines x) :=
  h.trans (.same rfl rfl rfl ⟨_, rfl⟩ rfl rfl rfl)
@[simp] theorem Keeps.setLine (h : Keeps s t) (n : Fin 8) (x : Line) : Keeps s (t.setLine n x) := h.setLines _
@[simp] theorem Keeps.setWatch (h : Keeps s t) (x : Watch) : Keeps s (t.setWatch x) :=
  h.trans (.same rfl rfl rfl ⟨_, rfl⟩ rfl rfl rfl)
@[simp] theorem Keeps.setFree (h : Keeps s t) (x : Nat) : Keeps s (t.setFree x) :=
  h.trans (.same rfl rfl rfl ⟨_, rfl⟩ rfl rfl rfl)
@[simp] theorem Keeps.setSlot (h : Keeps s t) (x : Slot) : Keeps s (t.setSlot x) :=
  h.trans (.same rfl rfl rfl ⟨x, rfl⟩ rfl rfl rfl)

theorem State.channel_setChannel_same (s : State) (n : Fin 4) (c : Channel) : (s.setChannel n c).channel n = c := by
  simp [State.channel, State.setChannel]

theorem State.channel_setChannel_other (s : State) (n m : Fin 4) (c : Channel) (h : m ≠ n) :
    (s.setChannel n c).channel m = s.channel m := by
  simp only [State.channel, State.setChannel, State.channels_setChannels]
  exact Vector.getElem_set_ne _ _ (by intro e; exact h (Fin.ext e.symm))

theorem State.line_setLine_same (s : State) (n : Fin 8) (l : Line) : (s.setLine n l).line n = l := by
  simp [State.line, State.setLine]

theorem State.line_setLine_other (s : State) (n m : Fin 8) (l : Line) (h : m ≠ n) :
    (s.setLine n l).line m = s.line m := by
  simp only [State.line, State.setLine, State.lines_setLines]
  exact Vector.getElem_set_ne _ _ (by intro e; exact h (Fin.ext e.symm))

theorem Keeps.setChannel (h : Keeps s t) (n : Fin 4) (c : Channel) (hc : (t.channel n).Ok → c.Ok) :
    Keeps s (t.setChannel n c) := by
  refine h.trans ⟨rfl, rfl, rfl, ⟨_, rfl⟩, EntriesKept.refl _, id, id, fun b m => ?_⟩
  by_cases hm : m = n
  · subst hm; rw [State.channel_setChannel_same]; exact hc (b m)
  · rw [State.channel_setChannel_other _ _ _ _ hm]; exact b m

theorem Channel.Ok.same {c d : Channel} (h : c.Ok) (h1 : d.current = c.current) (h2 : d.staged = c.staged) : d.Ok :=
  ⟨by rw [h1, h2]; exact h.beside, by rw [h1]; exact h.current, by rw [h2]; exact h.staged⟩

/-- A record with no block keeps R122. -/
theorem Channel.Ok.empty {d : Channel} (h1 : d.current = none) (h2 : d.staged = none) : d.Ok :=
  ⟨by simp [h1, h2], by simp [h1], by simp [h2]⟩

@[simp] theorem Keeps.setChannel_same (h : Keeps s t) (n : Fin 4) (c : Channel)
    (h1 : c.current = (t.channel n).current) (h2 : c.staged = (t.channel n).staged) : Keeps s (t.setChannel n c) :=
  h.setChannel n c fun k => k.same h1 h2

/-! ## Queue -/

theorem Keeps.setQueue (h : Keeps s t) (q : Queue) (hf : EntriesKept t.queue.entries q.entries)
    (ha : activeOk t.queue → activeOk q) : Keeps s (t.setQueue q) :=
  h.trans ⟨rfl, rfl, rfl, ⟨_, rfl⟩, hf, ha, id, id⟩

theorem EntriesKept.map (l : List Entry) (f : Entry → Entry) (h : ∀ e ∈ l, EntryKept e (f e)) :
    EntriesKept l (l.map f) := by
  induction l with
  | nil => exact .nil
  | cons a l ih =>
    exact .cons (h a (List.mem_cons_self ..)) (ih fun e he => h e (List.mem_cons_of_mem _ he))

theorem isFinished_of_active {e : Entry} (h : e.state = .active) : e.isFinished = false := by
  simp [Entry.isFinished, h]

/-- A change that makes no entry ACTIVE and un-finishes none keeps the order of R51. -/
theorem activeOk.map {q : Queue} (h : activeOk q) (f : Entry → Entry) (q' : Queue) (hq : q'.entries = q.entries.map f)
    (hact : ∀ e ∈ q.entries, (f e).state = .active → e.state = .active)
    (hfin : ∀ e ∈ q.entries, e.isFinished = true → (f e).isFinished = true)
    (hh : q'.halted = true → q.halted = true ∨ ∀ e ∈ q.entries, (f e).state ≠ .active) : activeOk q' := by
  constructor
  · rw [hq, List.pairwise_map]
    refine List.Pairwise.imp_of_mem ?_ h.order
    intro a b ha hb hab hact'
    exact hfin a ha (hab (hact b hb hact'))
  · intro hx e he
    rw [hq] at he
    obtain ⟨e0, he0, rfl⟩ := List.mem_map.mp he
    rcases hh hx with h1 | h1
    · intro hc
      exact h.halted h1 e0 he0 (hact e0 he0 hc)
    · exact h1 e0 he0

/-- A change of the ACTIVE entry that keeps its tag and its operation. -/
@[simp] theorem Keeps.mapActive (h : Keeps s t) (f : Entry → Entry)
    (hf : ∀ e, (f e).tag = e.tag ∧ (f e).op = e.op) : Keeps s (t.mapActive f) := by
  refine h.setQueue _ ?_ ?_
  · refine EntriesKept.map _ _ fun e _ => ?_
    split
    · rename_i ha
      exact ⟨(hf e).1, (hf e).2, fun hx => by rw [isFinished_of_active ha] at hx; exact absurd hx (by simp)⟩
    · exact EntryKept.refl e
  · intro ha
    refine ha.map _ _ rfl ?_ ?_ ?_
    · intro e _ hx; split at hx <;> assumption
    · intro e _ hx
      split
      · rename_i hc; rw [isFinished_of_active hc] at hx; exact absurd hx (by simp)
      · exact hx
    · exact fun hx => .inl hx

@[simp] theorem Keeps.endActive (h : Keeps s t) (st : EntryState) : Keeps s (t.endActive st) :=
  h.mapActive _ fun _ => ⟨rfl, rfl⟩

@[simp] theorem Keeps.failActive (h : Keeps s t) (r : FailRecord) (v : Option (Word × Word)) :
    Keeps s (t.failActive r v) := by
  unfold State.failActive State.mapActive Queue.mapActive
  refine h.setQueue _ ?_ ?_
  · refine EntriesKept.map _ _ fun e _ => ?_
    split
    · rename_i ha
      exact ⟨rfl, rfl, fun hx => by rw [isFinished_of_active ha] at hx; exact absurd hx (by simp)⟩
    · exact EntryKept.refl e
  · intro ha
    refine ha.map _ _ rfl ?_ ?_ ?_
    · intro e _ hx; split at hx <;> assumption
    · intro e _ hx
      split
      · rfl
      · exact hx
    · intro _
      refine .inr fun e _ => ?_
      split
      · simp
      · assumption

theorem activateFirst_kept (l : List Entry) : EntriesKept l (activateFirst l) := by
  induction l with
  | nil => exact .nil
  | cons a l ih =>
    unfold activateFirst
    split
    · rename_i h
      exact .cons ⟨rfl, rfl, fun hx => by simp [Entry.isFinished, h] at hx⟩ (EntriesKept.refl l)
    · exact .cons (EntryKept.refl a) ih

theorem activateFirst_order (l : List Entry) (h : ∀ e ∈ l, e.state ≠ .active) :
    (activateFirst l).Pairwise fun a b => b.state = .active → a.isFinished = true := by
  induction l with
  | nil => exact .nil
  | cons a l ih =>
    unfold activateFirst
    split
    · refine List.pairwise_cons.mpr ⟨fun b hb hact => absurd hact (h b (List.mem_cons_of_mem _ hb)), ?_⟩
      refine List.Pairwise.imp_of_mem (R := fun _ _ => True) ?_ (List.pairwise_of_forall (fun _ _ => trivial))
      intro x b _ hb _ hact
      exact absurd hact (h b (List.mem_cons_of_mem _ hb))
    · rename_i hq
      refine List.pairwise_cons.mpr ⟨fun b _ _ => ?_, ih fun e he => h e (List.mem_cons_of_mem _ he)⟩
      have := h a (List.mem_cons_self ..)
      unfold Entry.isFinished
      cases hs : a.state <;> simp_all

@[simp] theorem Keeps.deliver (h : Keeps s t) (src : AwaitSource) : Keeps s (t.deliver src) := by
  unfold State.deliver
  repeat' split
  all_goals simp [h]

/-! ## Notices -/

theorem noticesOk_postTo (ns : List Notice) (src : Source) (b : NoticeBody) (h : noticesOk ns) :
    noticesOk (postTo ns src b) := by
  unfold postTo
  split
  · unfold noticesOk at *
    rw [List.map_map]
    have : (Notice.source ∘ fun n : Notice =>
        if n.source = src then (⟨n.source, addCount n.occurrences 1, mergeBody n.body b⟩ : Notice) else n) =
        Notice.source := by
      funext n; simp only [Function.comp]; split <;> rfl
    rw [this]; exact h
  · rename_i hn
    unfold noticesOk at *
    rw [List.map_append, List.nodup_append]
    refine ⟨h, by simp, ?_⟩
    intro x hx y hy
    simp at hy hx hn
    obtain ⟨n, hn1, rfl⟩ := hx
    subst hy
    exact fun e => hn n hn1 e

@[simp] theorem Keeps.post (h : Keeps s t) (src : Source) (b : NoticeBody) : Keeps s (t.post src b) :=
  h.trans ⟨rfl, rfl, rfl, ⟨_, rfl⟩, EntriesKept.refl _, id, noticesOk_postTo _ _ _, id⟩

/-! ## Slot -/

@[simp] theorem Keeps.answer (h : Keeps s t) (k : Byte) (tag : Word) (st : Status) (b : ReplyBody) :
    Keeps s (t.answer k tag st b) := h.setSlot _

@[simp] theorem Keeps.refuse (h : Keeps s t) (k : Byte) (tag : Word) (st : Status) :
    Keeps s (t.refuse k tag st) := h.setSlot _

@[simp] theorem Keeps.finishWork (h : Keeps s t) (w : Work) (b : ReplyBody) : Keeps s (t.finishWork w b) := by
  unfold State.finishWork
  repeat' split
  all_goals simp [h]

end Sys2Proof.Machine
end

