-- ==== Sys2Proof/Laws/Blocks.lean ====
section
/-! SUPPORT. Each shared operation of the blocks, from a line's event to the settling of the blocks, keeps what `Keeps`
says. -/

namespace Sys2Proof.Machine

variable {s t : State}

theorem Keeps.foldl {α : Type} (f : State → α → State) (hf : ∀ t a, Keeps s t → Keeps s (f t a)) (l : List α)
    (h : Keeps s t) : Keeps s (l.foldl f t) := by
  induction l generalizing t with
  | nil => exact h
  | cons a l ih => exact ih (hf t a h)

/-! ## Lines -/

@[simp] theorem Keeps.postLine (h : Keeps s t) (n : Fin 8) (st : ActionStatus) (r : Option RunResult) : Keeps s (t.postLine n st r) := by
  unfold State.postLine
  try dsimp only
  repeat' split
  all_goals simp (maxDischargeDepth := 30) [h]

@[simp] theorem Keeps.lineToPending (h : Keeps s t) (n : Fin 8) : Keeps s (t.lineToPending n) := by
  unfold State.lineToPending
  try dsimp only
  repeat' split
  all_goals simp (maxDischargeDepth := 30) [h]

@[simp] theorem Keeps.lineEvent (h : Keeps s t) (n : Fin 8) : Keeps s (t.lineEvent n) := by
  unfold State.lineEvent
  try dsimp only
  repeat' split
  all_goals simp (maxDischargeDepth := 30) [h]

@[simp] theorem Keeps.lineLevelRule (h : Keeps s t) (n : Fin 8) : Keeps s (t.lineLevelRule n) := by
  unfold State.lineLevelRule
  try dsimp only
  repeat' split
  all_goals simp (maxDischargeDepth := 30) [h]

@[simp] theorem Keeps.linesLevelRule (h : Keeps s t) : Keeps s (t.linesLevelRule) := by
  exact h.foldl _ (fun _ n k => k.lineLevelRule n) _

@[simp] theorem Keeps.takeLine (h : Keeps s t) (n : Fin 8) (p : Progress) : Keeps s (t.takeLine n p) := by
  unfold State.takeLine
  try dsimp only
  repeat' split
  all_goals simp (maxDischargeDepth := 30) [h]

@[simp] theorem Keeps.actionSuccess (h : Keeps s t) (n : Fin 8) : Keeps s (t.actionSuccess n) := by
  unfold State.actionSuccess
  try dsimp only
  repeat' split
  all_goals simp (maxDischargeDepth := 30) [h]

@[simp] theorem Keeps.actionFailure (h : Keeps s t) (n : Fin 8) (r : FailRecord) (v : Option (Word × Word)) : Keeps s (t.actionFailure n r v) := by
  unfold State.actionFailure
  try dsimp only
  repeat' split
  all_goals simp (maxDischargeDepth := 30) [h]

/-! ## Watch unit -/

@[simp] theorem Keeps.abandonRead (h : Keeps s t) : Keeps s (t.abandonRead) := by
  unfold State.abandonRead
  try dsimp only
  repeat' split
  all_goals simp (maxDischargeDepth := 30) [h]

@[simp] theorem Keeps.discardPass (h : Keeps s t) : Keeps s (t.discardPass) := by
  unfold State.discardPass
  try dsimp only
  repeat' split
  all_goals simp (maxDischargeDepth := 30) [h]

@[simp] theorem Keeps.watchBegin (h : Keeps s t) : Keeps s (t.watchBegin) := by
  unfold State.watchBegin
  try dsimp only
  repeat' split
  all_goals simp (maxDischargeDepth := 30) [h]

@[simp] theorem Keeps.triggerEdge (h : Keeps s t) (n : Fin 8) : Keeps s (t.triggerEdge n) := by
  unfold State.triggerEdge
  try dsimp only
  repeat' split
  all_goals simp (maxDischargeDepth := 30) [h]

@[simp] theorem Keeps.watchComplete (h : Keeps s t) : Keeps s (t.watchComplete) := by
  unfold State.watchComplete
  try dsimp only
  repeat' split
  all_goals simp (maxDischargeDepth := 30) [h]

@[simp] theorem Keeps.watchStartRead (h : Keeps s t) (i : Fin 8) (e : WatchEntry) : Keeps s (t.watchStartRead i e) := by
  unfold State.watchStartRead
  try dsimp only
  repeat' split
  all_goals simp (maxDischargeDepth := 30) [h]

@[simp] theorem Keeps.watchStopped (h : Keeps s t) : Keeps s (t.watchStopped) := by
  unfold State.watchStopped
  try dsimp only
  repeat' split
  all_goals simp (maxDischargeDepth := 30) [h]

@[simp] theorem Keeps.watchReadEnd (h : Keeps s t) (r : Reading) : Keeps s (t.watchReadEnd r) := by
  unfold State.watchReadEnd
  try dsimp only
  repeat' split
  all_goals simp (maxDischargeDepth := 30) [h]

/-! ## Channels -/

@[simp] theorem Keeps.postChannel (h : Keeps s t) (n : Fin 4) (r : Reason) : Keeps s (t.postChannel n r) := by
  unfold State.postChannel
  try dsimp only
  repeat' split
  all_goals simp (maxDischargeDepth := 30) [h]

@[simp] theorem Keeps.channelFault (h : Keeps s t) (n : Fin 4) (k : FaultKind) : Keeps s (t.channelFault n k) := by
  unfold State.channelFault
  try dsimp only
  repeat' split
  all_goals simp (maxDischargeDepth := 30) [h]

@[simp] theorem Keeps.dmaElementStart (h : Keeps s t) (n : Fin 4) : Keeps s (t.dmaElementStart n) := by
  unfold State.dmaElementStart
  try dsimp only
  repeat' split
  all_goals simp (maxDischargeDepth := 30) [h]

@[simp] theorem Keeps.terminalCount (h : Keeps s t) (n : Fin 4) (b : Block) (hb : 0 < b.count) : Keeps s (t.terminalCount n b) := by
  unfold State.terminalCount
  dsimp only
  refine Keeps.deliver (Keeps.postChannel (h.setChannel n _ ?_) _ _) _
  intro k
  split
  · rename_i st hst
    exact ⟨by simp, by simpa using k.staged st hst, by simp⟩
  · rename_i hst
    split
    · exact ⟨by simp [hst], by simpa [Block.ok, Block.reload] using hb, by simp [hst]⟩
    · exact Channel.Ok.empty rfl hst

@[simp] theorem Keeps.channelStop (h : Keeps s t) (n : Fin 4) : Keeps s (t.channelStop n) := by
  unfold State.channelStop
  exact (h.setChannel n _ fun _ => Channel.Ok.empty rfl rfl).finishWork _ _

@[simp] theorem Keeps.dropMaster (h : Keeps s t) : Keeps s (t.dropMaster) := by
  unfold State.dropMaster
  try dsimp only
  repeat' split
  all_goals simp (maxDischargeDepth := 30) [h]

@[simp] theorem Keeps.withdrawGrant (h : Keeps s t) (n : Fin 4) : Keeps s (t.withdrawGrant n) := by
  unfold State.withdrawGrant
  try dsimp only
  repeat' split
  all_goals simp (maxDischargeDepth := 30) [h]

@[simp] theorem Keeps.quiesceChannel (h : Keeps s t) (n : Fin 4) : Keeps s (t.quiesceChannel n) := by
  unfold State.quiesceChannel
  try dsimp only
  repeat' split
  all_goals simp (maxDischargeDepth := 30) [h]

@[simp] theorem Keeps.channelLevel (h : Keeps s t) (n : Fin 4) : Keeps s (t.channelLevel n) := by
  unfold State.channelLevel
  try dsimp only
  repeat' split
  all_goals simp (maxDischargeDepth := 30) [h]

@[simp] theorem Keeps.channelLevels (h : Keeps s t) : Keeps s (t.channelLevels) := by
  exact h.foldl _ (fun _ n k => k.channelLevel n) _

@[simp] theorem Keeps.channelSresetAssert (h : Keeps s t) (n : Fin 4) : Keeps s (t.channelSresetAssert n) := by
  unfold State.channelSresetAssert
  try dsimp only
  repeat' split
  all_goals simp (maxDischargeDepth := 30) [h]

/-! ## Slot arbiter -/

@[simp] theorem Keeps.startRefresh (h : Keeps s t) (a : Arbiter) : Keeps s (t.startRefresh a) := by
  unfold State.startRefresh
  try dsimp only
  repeat' split
  all_goals simp (maxDischargeDepth := 30) [h]

@[simp] theorem Keeps.startGroupCycle (h : Keeps s t) (g : Group) : Keeps s (t.startGroupCycle g) := by
  unfold State.startGroupCycle
  try dsimp only
  repeat' split
  all_goals simp (maxDischargeDepth := 30) [h]

@[simp] theorem Keeps.grantChannel (h : Keeps s t) (n : Fin 4) : Keeps s (t.grantChannel n) := by
  unfold State.grantChannel
  try dsimp only
  repeat' split
  all_goals simp (maxDischargeDepth := 30) [h]

@[simp] theorem Keeps.grant (h : Keeps s t) (c : Claimant) : Keeps s (t.grant c) := by
  unfold State.grant
  try dsimp only
  repeat' split
  all_goals simp (maxDischargeDepth := 30) [h]

@[simp] theorem Keeps.arbitrateExcept (h : Keeps s t) (n : Nat) (ex : Option Claimant) : Keeps s (State.arbitrateExcept n ex t) := by
  induction n generalizing t with
  | zero => exact h
  | succ n ih =>
    unfold State.arbitrateExcept
    repeat' split
    all_goals first | exact h | exact ih (h.grant _)

@[simp] theorem Keeps.arbitrate (h : Keeps s t) : Keeps s (t.arbitrate) := by
  exact h.arbitrateExcept _ _

@[simp] theorem Keeps.endTenure (h : Keeps s t) (n : Fin 4) (x : Bool) : Keeps s (t.endTenure n x) := by
  unfold State.endTenure
  try dsimp only
  repeat' split
  all_goals simp (maxDischargeDepth := 30) [h]

@[simp] theorem Keeps.takeFree (h : Keeps s t) : Keeps s (t.takeFree.2) := by
  unfold State.takeFree
  try dsimp only
  repeat' split
  all_goals simp (maxDischargeDepth := 30) [h]

@[simp] theorem Keeps.endReloadTenure (h : Keeps s t) (n : Fin 4) : Keeps s (t.endReloadTenure n) := by
  unfold State.endReloadTenure
  split
  · exact h.takeFree.endTenure n _
  · exact h.endTenure n _

@[simp] theorem Keeps.dmaBoundary (h : Keeps s t) (n : Fin 4) (e : Bool) : Keeps s (t.dmaBoundary n e) := by
  unfold State.dmaBoundary
  try dsimp only
  repeat' split
  all_goals simp (maxDischargeDepth := 30) [h]

@[simp] theorem Keeps.refreshCycleEnd (h : Keeps s t) : Keeps s (t.refreshCycleEnd) := by
  unfold State.refreshCycleEnd
  try dsimp only
  repeat' split
  all_goals simp (maxDischargeDepth := 30) [h]

@[simp] theorem Keeps.handbackEnd (h : Keeps s t) : Keeps s (t.handbackEnd) := by
  unfold State.handbackEnd
  try dsimp only
  repeat' split
  all_goals simp (maxDischargeDepth := 30) [h]

@[simp] theorem Keeps.refreshExpiry (h : Keeps s t) : Keeps s (t.refreshExpiry) := by
  unfold State.refreshExpiry
  try dsimp only
  repeat' split
  all_goals simp (maxDischargeDepth := 30) [h]

/-! ## Memory port -/

@[simp] theorem Keeps.portChoose (h : Keeps s t) : Keeps s (t.portChoose) := by
  unfold State.portChoose
  try dsimp only
  repeat' split
  all_goals simp (maxDischargeDepth := 30) [h]

@[simp] theorem Keeps.linkUnitServed (h : Keeps s t) (v : Word) : Keeps s (t.linkUnitServed v) := by
  unfold State.linkUnitServed
  try dsimp only
  repeat' split
  all_goals simp (maxDischargeDepth := 30) [h]

@[simp] theorem Keeps.dmaReadServed (h : Keeps s t) (n : Fin 4) (v : Word) : Keeps s (t.dmaReadServed n v) := by
  unfold State.dmaReadServed
  try dsimp only
  repeat' split
  all_goals simp (maxDischargeDepth := 30) [h]

@[simp] theorem Keeps.masterReadServed (h : Keeps s t) (v : Word) : Keeps s (t.masterReadServed v) := by
  unfold State.masterReadServed
  try dsimp only
  repeat' split
  all_goals simp (maxDischargeDepth := 30) [h]

@[simp] theorem Keeps.masterStoreServed (h : Keeps s t) : Keeps s (t.masterStoreServed) := by
  unfold State.masterStoreServed
  try dsimp only
  repeat' split
  all_goals simp (maxDischargeDepth := 30) [h]

@[simp] theorem Keeps.startLinkJob (h : Keeps s t) (k : Byte) (tag : Word) (j : LinkJob) : Keeps s (t.startLinkJob k tag j) := by
  unfold State.startLinkJob
  try dsimp only
  repeat' split
  all_goals simp (maxDischargeDepth := 30) [h]

/-! ## Slot reset -/

@[simp] theorem Keeps.sresetAssert (h : Keeps s t) : Keeps s (t.sresetAssert) := by
  have k : Keeps s ((List.finRange 4).foldl State.channelSresetAssert (t.setSreset .slotReset)) :=
    (h.setSreset _).foldl _ (fun _ n k => k.channelSresetAssert n) _
  unfold State.sresetAssert
  dsimp only
  split
  · exact k.discardPass
  · exact k

@[simp] theorem Keeps.sresetRelease (h : Keeps s t) : Keeps s (t.sresetRelease) := by
  unfold State.sresetRelease
  try dsimp only
  repeat' split
  all_goals simp (maxDischargeDepth := 30) [h]

@[simp] theorem Keeps.watchReads (h : Keeps s t) (n : Nat) : Keeps s (State.watchReads n t) := by
  induction n generalizing t with
  | zero => exact h
  | succ n ih =>
    unfold State.watchReads
    repeat' split
    all_goals first | exact h | exact ih (h.watchStartRead _ _)

@[simp] theorem Keeps.sresetGrants (h : Keeps s t) : Keeps s (t.sresetGrants) :=
  ((h.channelLevels.watchReads _).arbitrate).portChoose

@[simp] theorem Keeps.sresetReleased (h : Keeps s t) : Keeps s (t.sresetReleased) := h.sresetRelease.sresetGrants

/-! ## Engine -/

@[simp] theorem Keeps.engineUnit (h : Keeps s t) (o : Nat) (w : Width) (x : UnitOp) : Keeps s (t.engineUnit o w x) := by
  unfold State.engineUnit
  try dsimp only
  repeat' split
  all_goals simp (maxDischargeDepth := 30) [h]

@[simp] theorem Keeps.startCardPart (h : Keeps s t) (e : Element) : Keeps s (t.startCardPart e) := by
  unfold State.startCardPart
  try dsimp only
  repeat' split
  all_goals simp (maxDischargeDepth := 30) [h]

@[simp] theorem Keeps.startElement (h : Keeps s t) (e : Element) : Keeps s (t.startElement e) := by
  unfold State.startElement
  try dsimp only
  repeat' split
  all_goals simp (maxDischargeDepth := 30) [h]

@[simp] theorem Keeps.actionBoundary (h : Keeps s t) (n : Fin 8) (a b : Word) : Keeps s (t.actionBoundary n a b) := by
  unfold State.actionBoundary
  try dsimp only
  repeat' split
  all_goals simp (maxDischargeDepth := 30) [h]

theorem Entry.boundary_tag_op (e : Entry) (a b : Word) : (e.boundary a b).tag = e.tag ∧ (e.boundary a b).op = e.op := by
  unfold Entry.boundary
  dsimp only
  repeat' split
  all_goals exact ⟨rfl, rfl⟩

@[simp] theorem Keeps.elementBoundary (h : Keeps s t) (e : Element) (a b : Word) : Keeps s (t.elementBoundary e a b) := by
  unfold State.elementBoundary
  dsimp only
  split
  · exact (h.setElement _).mapActive _ fun e => e.boundary_tag_op a b
  · simp (maxDischargeDepth := 30) [h]
  · simp (maxDischargeDepth := 30) [h]

@[simp] theorem Keeps.itemFailed (h : Keeps s t) (i : WorkItem) (r : FailRecord) (v : Option (Word × Word)) : Keeps s (t.itemFailed i r v) := by
  unfold State.itemFailed
  try dsimp only
  repeat' split
  all_goals simp (maxDischargeDepth := 30) [h]

@[simp] theorem Keeps.cardPartDone (h : Keeps s t) (e : Element) (a b : Word) : Keeps s (t.cardPartDone e a b) := by
  unfold State.cardPartDone
  try dsimp only
  repeat' split
  all_goals simp (maxDischargeDepth := 30) [h]

@[simp] theorem Keeps.engineUnitServed (h : Keeps s t) (a b : Word) : Keeps s (t.engineUnitServed a b) := by
  unfold State.engineUnitServed
  try dsimp only
  repeat' split
  all_goals simp (maxDischargeDepth := 30) [h]

@[simp] theorem Keeps.beginElement (h : Keeps s t) (i : WorkItem) (o : CycleOwner) (x : Op) (p : Progress) : Keeps s (t.beginElement i o x p) := by
  unfold State.beginElement
  try dsimp only
  repeat' split
  all_goals simp (maxDischargeDepth := 30) [h]

@[simp] theorem Keeps.beginAction (h : Keeps s t) (n : Fin 8) : Keeps s (t.beginAction n) := by
  unfold State.beginAction
  try dsimp only
  repeat' split
  all_goals simp (maxDischargeDepth := 30) [h]

@[simp] theorem Keeps.takePending (h : Keeps s t) (n : Fin 8) : Keeps s (t.takePending n) := by
  unfold State.takePending
  try dsimp only
  repeat' split
  all_goals simp (maxDischargeDepth := 30) [h]

/-- The activation of the oldest QUEUED entry, taken while none is ACTIVE and `halted` is clear. -/
theorem Keeps.activate (h : Keeps s t) (e : Entry) (ha : ∀ e ∈ t.queue.entries, e.state ≠ .active)
    (hh : t.queue.halted = false) : Keeps s (t.activate e) := by
  have k : Keeps s (t.setQueue { t.queue with entries := activateFirst t.queue.entries }) :=
    h.setQueue _ (activateFirst_kept _) fun _ =>
      ⟨activateFirst_order _ ha, fun hx => by rw [hh] at hx; exact absurd hx (by simp)⟩
  unfold State.activate
  dsimp only
  split
  · exact k.sresetAssert
  · exact k

theorem Queue.active_none {q : Queue} (h : q.active = none) : ∀ e ∈ q.entries, e.state ≠ .active := by
  intro e he hc
  have := List.find?_eq_none.mp h e he
  simp [hc] at this

theorem Keeps.engineChoice (h : Keeps s t) (u : State) (hu : t.engineChoice = some u) : Keeps s u := by
  unfold State.engineChoice at hu
  repeat' split at hu
  all_goals cases hu
  all_goals
    first
    | exact h.beginAction _
    | exact h.takePending _
    | exact (h.setEngineState _).beginElement _ _ _ _
    | exact h.activate _ (Queue.active_none ‹_›) (by simp_all)

@[simp] theorem Keeps.engineRest (h : Keeps s t) : Keeps s (t.engineRest) := by
  unfold State.engineRest
  try dsimp only
  repeat' split
  all_goals simp (maxDischargeDepth := 30) [h]

@[simp] theorem Keeps.engineChoose (h : Keeps s t) (n : Nat) : Keeps s (State.engineChoose n t) := by
  induction n generalizing t with
  | zero => exact h
  | succ n ih =>
    unfold State.engineChoose
    split
    · rename_i u hu; exact ih (h.engineChoice u hu)
    · exact h.engineRest

/-! ## Settling -/

@[simp] theorem Keeps.watchContinue (h : Keeps s t) (n : Nat) : Keeps s (State.watchContinue n t) := by
  induction n generalizing t with
  | zero => exact h
  | succ n ih =>
    unfold State.watchContinue
    repeat' split
    all_goals first | exact h | exact ih (h.watchComplete.engineChoose _) | exact ih (h.watchStartRead _ _)

@[simp] theorem Keeps.settleBlocks (h : Keeps s t) : Keeps s (t.settleBlocks) := by
  unfold State.settleBlocks
  exact (((h.channelLevels.engineChoose _).watchContinue _).arbitrate).portChoose

@[simp] theorem Keeps.channelNoticeSent (h : Keeps s t) (b : ChannelBody) : Keeps s (t.channelNoticeSent b) := by
  unfold State.channelNoticeSent
  try dsimp only
  repeat' split
  all_goals simp (maxDischargeDepth := 30) [h]

@[simp] theorem Keeps.noticeSent (h : Keeps s t) (n : Notice) : Keeps s (t.noticeSent n) := by
  unfold State.noticeSent
  try dsimp only
  repeat' split
  all_goals simp (maxDischargeDepth := 30) [h]

end Sys2Proof.Machine
end

