-- ==== Sys2Proof/Laws/Events.lean ====
section
/-! SUPPORT. What each event does before the blocks settle keeps what `Keeps` says, but for the events that replace base
memory, the queue or the link. -/

namespace Sys2Proof.Machine

variable {s t : State}

/-! ## Cycle ends -/

theorem State.setChannel_setChannel (t : State) (n : Fin 4) (c d : Channel) :
    (t.setChannel n c).setChannel n d = t.setChannel n d := by
  simp [State.setChannel, State.setChannels]

/-- The end of an element that completes its block. -/
theorem Keeps.terminalCount_full (h : Keeps s t) (n : Fin 4) (c : Channel) (b : Block) (hb : 0 < b.count)
    (hs : c.staged = (t.channel n).staged) : Keeps s ((t.setChannel n c).terminalCount n b) := by
  unfold State.terminalCount
  dsimp only
  rw [State.channel_setChannel_same, State.setChannel_setChannel]
  refine Keeps.deliver (Keeps.postChannel (h.setChannel n _ ?_) _ _) _
  intro k
  split
  · rename_i st hst
    exact ⟨by simp, by simpa using k.staged st (hs ▸ hst), by simp⟩
  · rename_i hst
    split
    · exact ⟨by simp [hst], by simpa [Block.ok, Block.reload] using hb, by simp [hst]⟩
    · exact Channel.Ok.empty rfl hst

/-- An element that ends OK before its block is complete leaves elements to move. -/
theorem Keeps.advance (h : Keeps s t) (n : Fin 4) (b : Block) (hb : (t.channel n).current = some b) (w : Width)
    (hd : (b.advance w).done ≠ (b.advance w).count) :
    Keeps s (t.setChannel n { t.channel n with current := some (b.advance w) }) := by
  refine h.setChannel n _ fun k => ⟨by simp, ?_, k.staged⟩
  intro b' hb'
  have h1 := k.current b hb
  simp at hb'
  subst hb'
  simp only [Block.ok, Block.advance] at *
  omega

@[simp] theorem Keeps.dmaElementEnd (h : Keeps s t) (n : Fin 4) (o : CycleOutcome) (d : Word) : Keeps s (t.dmaElementEnd n o d) := by
  unfold State.dmaElementEnd
  dsimp only
  split
  · exact h.endTenure n _
  · rename_i b hb
    split
    · have hchan : ∀ p : Port, ((t.setPort p).channel n) = t.channel n := fun _ => rfl
      split
      · rename_i hc
        refine Keeps.dmaBoundary (Keeps.engineChoose ?_ _) n _
        refine Keeps.terminalCount_full ?_ n _ _ ?_ ?_
        · split <;> simp [h]
        · simp only [Block.advance] at hc ⊢; omega
        · split <;> rfl
      · rename_i hc
        refine Keeps.dmaBoundary ?_ n _
        split
        · exact (h.setPort _).advance n b (by rw [hchan]; exact hb) _ hc
        · exact h.advance n b hb _ hc
    · exact (h.channelFault n _).endTenure n _
    · exact (h.channelFault n _).endTenure n _

@[simp] theorem Keeps.engineGrantPoint (h : Keeps s t) : Keeps s (t.engineGrantPoint) := by
  unfold State.engineGrantPoint
  dsimp only
  split
  · split
    · exact (h.setArbiter _).takeFree
    · exact (h.setArbiter _).takeFree.arbitrate
  · exact h.setArbiter _

@[simp] theorem Keeps.groupFinished (h : Keeps s t) (g : Group) (a b : Word) : Keeps s (t.groupFinished g a b) := by
  unfold State.groupFinished
  try dsimp only
  repeat' split
  all_goals simp (maxDischargeDepth := 30) [h]

@[simp] theorem Keeps.groupFailed (h : Keeps s t) (g : Group) (k : FaultKind) : Keeps s (t.groupFailed g k) := by
  unfold State.groupFailed
  try dsimp only
  repeat' split
  all_goals simp (maxDischargeDepth := 30) [h]

@[simp] theorem Keeps.groupCycleEnd (h : Keeps s t) (o : CycleOutcome) (w : Bool) (d : Word) : Keeps s (t.groupCycleEnd o w d) := by
  unfold State.groupCycleEnd
  try dsimp only
  repeat' split
  all_goals simp (maxDischargeDepth := 30) [h]

@[simp] theorem Keeps.cycleOver (h : Keeps s t) (c : Cycle) (o : CycleOutcome) (w : Bool) (d : Word) : Keeps s (t.cycleOver c o w d) := by
  unfold State.cycleOver
  try dsimp only
  repeat' split
  all_goals simp (maxDischargeDepth := 30) [h]

@[simp] theorem Keeps.cycleEnd (h : Keeps s t) (l : List Bool) (w : Bool) (d : Word) : Keeps s (t.cycleEnd l w d) := by
  unfold State.cycleEnd
  try dsimp only
  repeat' split
  all_goals simp (maxDischargeDepth := 30) [h]

@[simp] theorem Keeps.readyTimeout (h : Keeps s t) (l : List Bool) : Keeps s (t.readyTimeout l) := by
  unfold State.readyTimeout
  try dsimp only
  repeat' split
  all_goals simp (maxDischargeDepth := 30) [h]

/-! ## SFAULT, the memory port, a master's cycle -/

@[simp] theorem Keeps.sfaultRise (h : Keeps s t) : Keeps s (t.sfaultRise) := by
  unfold State.sfaultRise
  try dsimp only
  repeat' split
  all_goals simp (maxDischargeDepth := 30) [h]

@[simp] theorem Keeps.sfaultFall (h : Keeps s t) : Keeps s (t.sfaultFall) := by
  unfold State.sfaultFall
  try dsimp only
  repeat' split
  all_goals simp (maxDischargeDepth := 30) [h]

@[simp] theorem Keeps.portTie (h : Keeps s t) : Keeps s (t.portTie) := by
  unfold State.portTie
  dsimp only
  split
  · split
    · exact h.takeFree
    · exact h.takeFree.portChoose
  · exact h

@[simp] theorem Keeps.unitServed (h : Keeps s t) (u : MemUnit) (a b : Word) : Keeps s (t.unitServed u a b) := by
  unfold State.unitServed
  try dsimp only
  repeat' split
  all_goals simp (maxDischargeDepth := 30) [h]

@[simp] theorem Keeps.masterAddressPhase (h : Keeps s t) (sp : Space) (a : Nat) (x y : Bool) : Keeps s (t.masterAddressPhase sp a x y) := by
  unfold State.masterAddressPhase
  dsimp only
  repeat' split
  all_goals
    first
    | simp (maxDischargeDepth := 30) [h]; done
    | exact Keeps.setChannel_same (h.dropMaster.setMaster _) _ _ rfl rfl

@[simp] theorem Keeps.masterStrobeAssert (h : Keeps s t) (d : Word) : Keeps s (t.masterStrobeAssert d) := by
  unfold State.masterStrobeAssert
  try dsimp only
  repeat' split
  all_goals simp (maxDischargeDepth := 30) [h]

@[simp] theorem Keeps.masterStrobeRelease (h : Keeps s t) : Keeps s (t.masterStrobeRelease) := by
  unfold State.masterStrobeRelease
  try dsimp only
  repeat' split
  all_goals simp (maxDischargeDepth := 30) [h]

@[simp] theorem Keeps.handbackTimeout (h : Keeps s t) : Keeps s (t.handbackTimeout) := by
  unfold State.handbackTimeout
  try dsimp only
  repeat' split
  all_goals simp (maxDischargeDepth := 30) [h]

/-! ## SREQ and SINT -/

@[simp] theorem Keeps.sreqAssert (h : Keeps s t) (n : Fin 4) : Keeps s (t.sreqAssert n) := by
  unfold State.sreqAssert
  try dsimp only
  repeat' split
  all_goals simp (maxDischargeDepth := 30) [h]

@[simp] theorem Keeps.sreqDeassert (h : Keeps s t) (n : Fin 4) : Keeps s (t.sreqDeassert n) := by
  unfold State.sreqDeassert
  try dsimp only
  repeat' split
  all_goals simp (maxDischargeDepth := 30) [h]

@[simp] theorem Keeps.tenureExpiry (h : Keeps s t) (n : Fin 4) : Keeps s (t.tenureExpiry n) := by
  unfold State.tenureExpiry
  try dsimp only
  repeat' split
  all_goals simp (maxDischargeDepth := 30) [h]

@[simp] theorem Keeps.sintRise (h : Keeps s t) (n : Fin 8) : Keeps s (t.sintRise n) := by
  unfold State.sintRise
  try dsimp only
  repeat' split
  all_goals simp (maxDischargeDepth := 30) [h]

@[simp] theorem Keeps.sintFall (h : Keeps s t) (n : Fin 8) : Keeps s (t.sintFall n) := by
  unfold State.sintFall
  try dsimp only
  repeat' split
  all_goals simp (maxDischargeDepth := 30) [h]

/-! ## Timers -/

@[simp] theorem Keeps.delayExpiry (h : Keeps s t) : Keeps s (t.delayExpiry) := by
  unfold State.delayExpiry
  try dsimp only
  repeat' split
  all_goals simp (maxDischargeDepth := 30) [h]

@[simp] theorem Keeps.awaitTimeout (h : Keeps s t) : Keeps s (t.awaitTimeout) := by
  unfold State.awaitTimeout
  try dsimp only
  repeat' split
  all_goals simp (maxDischargeDepth := 30) [h]

@[simp] theorem Keeps.slotResetExpiry (h : Keeps s t) : Keeps s (t.slotResetExpiry) := by
  unfold State.slotResetExpiry
  try dsimp only
  repeat' split
  all_goals simp (maxDischargeDepth := 30) [h]

@[simp] theorem Keeps.scanIntervalExpiry (h : Keeps s t) (w : ScanOwner) : Keeps s (t.scanIntervalExpiry w) := by
  unfold State.scanIntervalExpiry
  try dsimp only
  repeat' split
  all_goals simp (maxDischargeDepth := 30) [h]

@[simp] theorem Keeps.watchRestExpiry (h : Keeps s t) : Keeps s (t.watchRestExpiry) := by
  unfold State.watchRestExpiry
  try dsimp only
  repeat' split
  all_goals simp (maxDischargeDepth := 30) [h]

@[simp] theorem Keeps.powerOnSresetEnd (h : Keeps s t) : Keeps s (t.powerOnSresetEnd) := by
  unfold State.powerOnSresetEnd
  try dsimp only
  repeat' split
  all_goals simp (maxDischargeDepth := 30) [h]

/-! ## Link reset, by block -/

@[simp] theorem Keeps.lineLinkReset (h : Keeps s t) (n : Fin 8) : Keeps s (t.lineLinkReset n) := by
  unfold State.lineLinkReset
  try dsimp only
  repeat' split
  all_goals simp (maxDischargeDepth := 30) [h]

@[simp] theorem Keeps.watchLinkReset (h : Keeps s t) : Keeps s (t.watchLinkReset) := by
  unfold State.watchLinkReset
  try dsimp only
  repeat' split
  all_goals simp (maxDischargeDepth := 30) [h]

end Sys2Proof.Machine
end

