-- ==== Sys2Proof/Laws/Framing.lean ====
section
/-! SUPPORT. Reading back what a field, and each fixed part, is laid out as. -/

namespace Sys2Proof

@[simp] theorem take1_cons (b : Byte) (l : List Byte) : take1 (b :: l) = some (b, l) := rfl

@[simp] theorem take2_bytes2 (x : Word) (l : List Byte) : take2 (bytes2 x ++ l) = some (x, l) := by
  simp only [bytes2, List.cons_append, List.nil_append, take2, Option.some.injEq, Prod.mk.injEq, and_true]
  apply BitVec.eq_of_getLsbD_eq
  intro i hi
  simp only [BitVec.getLsbD_append, BitVec.getLsbD_extractLsb']
  split <;> simp <;> grind

@[simp] theorem take3_bytes3 (x : BitVec 24) (l : List Byte) : take3 (bytes3 x ++ l) = some (x, l) := by
  simp only [bytes3, List.cons_append, List.nil_append, take3, Option.some.injEq, Prod.mk.injEq, and_true]
  apply BitVec.eq_of_getLsbD_eq
  intro i hi
  simp only [BitVec.getLsbD_append, BitVec.getLsbD_extractLsb']
  repeat' split
  all_goals simp <;> grind

@[simp] theorem take4_bytes4 (x : BitVec 32) (l : List Byte) : take4 (bytes4 x ++ l) = some (x, l) := by
  simp only [bytes4, List.cons_append, List.nil_append, take4, Option.some.injEq, Prod.mk.injEq, and_true]
  apply BitVec.eq_of_getLsbD_eq
  intro i hi
  simp only [BitVec.getLsbD_append, BitVec.getLsbD_extractLsb']
  repeat' split
  all_goals simp <;> grind

@[simp] theorem takeWindow_bytes (f : WindowFields) (l : List Byte) : takeWindow (f.bytes ++ l) = some (f, l) := by
  simp [takeWindow, WindowFields.bytes]

@[simp] theorem takeChannel_bytes (f : ChannelFields) (l : List Byte) :
    takeChannel (f.bytes ++ l) = some (f, l) := by
  simp [takeChannel, ChannelFields.bytes]

@[simp] theorem takeStage_bytes (f : StageFields) (l : List Byte) : takeStage (f.bytes ++ l) = some (f, l) := by
  simp [takeStage, StageFields.bytes]

@[simp] theorem takeCard_bytes (f : CardFields) (l : List Byte) : takeCard (f.bytes ++ l) = some (f, l) := by
  simp [takeCard, CardFields.bytes]

@[simp] theorem takeTransfer_bytes (f : TransferFields) (l : List Byte) :
    takeTransfer (f.bytes ++ l) = some (f, l) := by
  simp [takeTransfer, TransferFields.bytes]

@[simp] theorem takeScan_bytes (f : ScanFields) (l : List Byte) : takeScan (f.bytes ++ l) = some (f, l) := by
  simp [takeScan, ScanFields.bytes]

@[simp] theorem takeCompare_bytes (f : CompareFields) (l : List Byte) :
    takeCompare (f.bytes ++ l) = some (f, l) := by
  simp [takeCompare, CompareFields.bytes]

@[simp] theorem takeWatchSlot_bytes (f : WatchSlotFields) (l : List Byte) :
    takeWatchSlot (f.bytes ++ l) = some (f, l) := by
  simp [takeWatchSlot, WatchSlotFields.bytes]

theorem takeAction_bytes (a : ActionFields) (h : a.wf = true) (l : List Byte) :
    takeAction (a.bytes ++ l) = some (a, l) := by
  cases a with
  | unlisted k =>
    simp only [ActionFields.bytes, List.cons_append, List.nil_append, takeAction, take1_cons, Option.bind_eq_bind,
      Option.bind_some]
    simp only [ActionFields.wf, Bool.not_eq_true', Bool.or_eq_false_iff, beq_eq_false_iff_ne] at h
    have e : ∀ c : Byte, k ≠ c → k.toNat ≠ c.toNat := fun c hc e => hc (BitVec.eq_of_toNat_eq e)
    obtain ⟨⟨⟨⟨⟨h0, h1⟩, h2⟩, h3⟩, h4⟩, h5⟩ := h
    split
    · exact absurd ‹_› (e _ h0)
    · exact absurd ‹_› (e _ h1)
    · exact absurd ‹_› (e _ h2)
    · exact absurd ‹_› (e _ h3)
    · exact absurd ‹_› (e _ h4)
    · exact absurd ‹_› (e _ h5)
    · rfl
  | _ => simp [ActionFields.bytes, takeAction]

theorem takeLine_bytes (f : LineFields) (h : f.action.wf = true) (l : List Byte) :
    takeLine (f.bytes ++ l) = some (f, l) := by
  simp [takeLine, LineFields.bytes, takeAction_bytes f.action h]

theorem takeWatch_bytes (f : WatchFields) (l : List Byte) : takeWatch (f.bytes ++ l) = some (f, l) := by
  obtain ⟨m, i, t, v⟩ := f
  simp (maxSteps := 4000000) only [takeWatch, WatchFields.bytes, List.append_assoc, List.cons_append, List.nil_append, take1_cons,
    take2_bytes2, takeWatchSlot_bytes, Option.bind_eq_bind, Option.bind_some, Option.some.injEq, Prod.mk.injEq,
    WatchFields.mk.injEq, true_and, and_true]
  ext i hi : 1
  have : i = 0 ∨ i = 1 ∨ i = 2 ∨ i = 3 ∨ i = 4 ∨ i = 5 ∨ i = 6 ∨ i = 7 := by omega
  rcases this with h | h | h | h | h | h | h | h <;> subst h <;> rfl

/-- The reader of a kind reads back the fixed part and leaves the data bytes. -/
theorem takeBody_bytes (b : RequestBody) (h : b.wf = true) (l : List Byte) :
    takeBody b.kind (b.bytes ++ l) = some (some (b, l)) := by
  cases b with
  | lineSet f => simp [takeBody, RequestBody.kind, RequestBody.bytes, takeLine_bytes f h]
  | watchSet f => simp [takeBody, RequestBody.kind, RequestBody.bytes, takeWatch_bytes f]
  | _ => simp [takeBody, RequestBody.kind, RequestBody.bytes]

theorem bytes2_length (x : Word) : (bytes2 x).length = 2 := rfl
theorem bytes3_length (x : BitVec 24) : (bytes3 x).length = 3 := rfl
theorem bytes4_length (x : BitVec 32) : (bytes4 x).length = 4 := rfl

/-- The bytes of the fixed part are as many as its layout has. -/
theorem RequestBody.bytes_length (b : RequestBody) : b.bytes.length = b.size := by
  cases b with
  | lineSet f =>
    obtain ⟨a, b, c, d, act⟩ := f
    cases act <;>
      simp [RequestBody.bytes, RequestBody.size, LineFields.bytes, ActionFields.bytes, ActionFields.size,
        CardFields.bytes, TransferFields.bytes, ScanFields.bytes, bytes2_length, bytes3_length, bytes4_length]
  | _ =>
    simp [RequestBody.bytes, RequestBody.size, WindowFields.bytes, ChannelFields.bytes, StageFields.bytes,
      CardFields.bytes, TransferFields.bytes, ScanFields.bytes, CompareFields.bytes, WatchFields.bytes,
      WatchSlotFields.bytes, bytes2_length, bytes3_length, bytes4_length]

/-! ## How many bytes a reader takes -/

theorem take1_length {l m : List Byte} {x : Byte} (h : take1 l = some (x, m)) : l.length = 1 + m.length := by
  unfold take1 at h; split at h <;> simp at h
  obtain ⟨rfl, rfl⟩ := h; simp; omega

theorem take2_length {l m : List Byte} {x : Word} (h : take2 l = some (x, m)) : l.length = 2 + m.length := by
  unfold take2 at h; split at h <;> simp at h
  obtain ⟨rfl, rfl⟩ := h; simp; omega

theorem take3_length {l m : List Byte} {x : BitVec 24} (h : take3 l = some (x, m)) : l.length = 3 + m.length := by
  unfold take3 at h; split at h <;> simp at h
  obtain ⟨rfl, rfl⟩ := h; simp; omega

theorem take4_length {l m : List Byte} {x : BitVec 32} (h : take4 l = some (x, m)) : l.length = 4 + m.length := by
  unfold take4 at h; split at h <;> simp at h
  obtain ⟨rfl, rfl⟩ := h; simp; omega

theorem takeWindow_length {l m : List Byte} {f : WindowFields} (h : takeWindow l = some (f, m)) : l.length = 13 + m.length := by
  simp only [takeWindow, Option.bind_eq_bind, Option.bind_eq_some_iff, Option.some.injEq, Prod.mk.injEq, Prod.exists] at h
  grind [take1_length, take2_length, take3_length, take4_length]

theorem takeChannel_length {l m : List Byte} {f : ChannelFields} (h : takeChannel l = some (f, m)) : l.length = 9 + m.length := by
  simp only [takeChannel, Option.bind_eq_bind, Option.bind_eq_some_iff, Option.some.injEq, Prod.mk.injEq, Prod.exists] at h
  grind [take1_length, take2_length, take3_length, take4_length]

theorem takeStage_length {l m : List Byte} {f : StageFields} (h : takeStage l = some (f, m)) : l.length = 9 + m.length := by
  simp only [takeStage, Option.bind_eq_bind, Option.bind_eq_some_iff, Option.some.injEq, Prod.mk.injEq, Prod.exists] at h
  grind [take1_length, take2_length, take3_length, take4_length]

theorem takeCard_length {l m : List Byte} {f : CardFields} (h : takeCard l = some (f, m)) : l.length = 5 + m.length := by
  simp only [takeCard, Option.bind_eq_bind, Option.bind_eq_some_iff, Option.some.injEq, Prod.mk.injEq, Prod.exists] at h
  grind [take1_length, take2_length, take3_length, take4_length]

theorem takeTransfer_length {l m : List Byte} {f : TransferFields} (h : takeTransfer l = some (f, m)) : l.length = 16 + m.length := by
  simp only [takeTransfer, Option.bind_eq_bind, Option.bind_eq_some_iff, Option.some.injEq, Prod.mk.injEq, Prod.exists] at h
  grind [take1_length, take2_length, take3_length, take4_length]

theorem takeScan_length {l m : List Byte} {f : ScanFields} (h : takeScan l = some (f, m)) : l.length = 21 + m.length := by
  simp only [takeScan, Option.bind_eq_bind, Option.bind_eq_some_iff, Option.some.injEq, Prod.mk.injEq, Prod.exists] at h
  grind [take1_length, take2_length, take3_length, take4_length]

theorem takeCompare_length {l m : List Byte} {f : CompareFields} (h : takeCompare l = some (f, m)) : l.length = 17 + m.length := by
  simp only [takeCompare, Option.bind_eq_bind, Option.bind_eq_some_iff, Option.some.injEq, Prod.mk.injEq, Prod.exists] at h
  grind [take1_length, take2_length, take3_length, take4_length]

theorem takeWatchSlot_length {l m : List Byte} {f : WatchSlotFields} (h : takeWatchSlot l = some (f, m)) : l.length = 9 + m.length := by
  simp only [takeWatchSlot, Option.bind_eq_bind, Option.bind_eq_some_iff, Option.some.injEq, Prod.mk.injEq, Prod.exists] at h
  grind [take1_length, take2_length, take3_length, take4_length]

theorem takeWatch_length {l m : List Byte} {f : WatchFields} (h : takeWatch l = some (f, m)) :
    l.length = 76 + m.length := by
  simp (maxSteps := 4000000) only [takeWatch, Option.bind_eq_bind, Option.bind_eq_some_iff, Option.some.injEq, Prod.mk.injEq,
    Prod.exists] at h
  grind [take1_length, take2_length, takeWatchSlot_length]

theorem take1_short {l : List Byte} (h : l.length < 1) : take1 l = none := by
  cases e : take1 l with
  | none => rfl
  | some p => have := take1_length e; omega

theorem take2_short {l : List Byte} (h : l.length < 2) : take2 l = none := by
  cases e : take2 l with
  | none => rfl
  | some p => have := take2_length e; omega

theorem take3_short {l : List Byte} (h : l.length < 3) : take3 l = none := by
  cases e : take3 l with
  | none => rfl
  | some p => have := take3_length e; omega

theorem take4_short {l : List Byte} (h : l.length < 4) : take4 l = none := by
  cases e : take4 l with
  | none => rfl
  | some p => have := take4_length e; omega

theorem takeWindow_short {l : List Byte} (h : l.length < 13) : takeWindow l = none := by
  cases e : takeWindow l with
  | none => rfl
  | some p => have := takeWindow_length e; omega

theorem takeChannel_short {l : List Byte} (h : l.length < 9) : takeChannel l = none := by
  cases e : takeChannel l with
  | none => rfl
  | some p => have := takeChannel_length e; omega

theorem takeStage_short {l : List Byte} (h : l.length < 9) : takeStage l = none := by
  cases e : takeStage l with
  | none => rfl
  | some p => have := takeStage_length e; omega

theorem takeCard_short {l : List Byte} (h : l.length < 5) : takeCard l = none := by
  cases e : takeCard l with
  | none => rfl
  | some p => have := takeCard_length e; omega

theorem takeTransfer_short {l : List Byte} (h : l.length < 16) : takeTransfer l = none := by
  cases e : takeTransfer l with
  | none => rfl
  | some p => have := takeTransfer_length e; omega

theorem takeScan_short {l : List Byte} (h : l.length < 21) : takeScan l = none := by
  cases e : takeScan l with
  | none => rfl
  | some p => have := takeScan_length e; omega

theorem takeCompare_short {l : List Byte} (h : l.length < 17) : takeCompare l = none := by
  cases e : takeCompare l with
  | none => rfl
  | some p => have := takeCompare_length e; omega

theorem takeWatch_short {l : List Byte} (h : l.length < 76) : takeWatch l = none := by
  cases e : takeWatch l with
  | none => rfl
  | some p => have := takeWatch_length e; omega

/-- A fixed part of another kind than LineSet that is shorter than its layout is not read. -/
theorem takeBody_short (b : RequestBody) (hl : ∀ f, b ≠ .lineSet f) (l : List Byte) (h : l.length < b.size) :
    takeBody b.kind l = some none := by
  cases b with
  | lineSet f => exact absurd rfl (hl f)
  | _ =>
    simp only [RequestBody.size] at h
    simp [takeBody, RequestBody.kind] <;>
      grind [take1_length, take2_length, take3_length, take4_length, takeCard_length, take1_short, take2_short,
        take3_short, take4_short, takeWindow_short, takeChannel_short, takeStage_short, takeCard_short,
        takeTransfer_short, takeScan_short, takeCompare_short, takeWatch_short]

end Sys2Proof
end

