-- ==== Sys2Proof/Laws/Settling.lean ====
section
/-! SUPPORT. What the settling of the blocks leaves alone (`Untouched`), one lemma for each operation that settling
calls. -/

namespace Sys2Proof.Machine

variable {s t : State}

@[simp] theorem Untouched.refl (s : State) : Untouched s s :=
  ⟨rfl, rfl, rfl, rfl, rfl, rfl, rfl, ⟨rfl, rfl, rfl, rfl, rfl⟩, fun _ => ⟨rfl, rfl, rfl, rfl, rfl⟩,
    fun _ => ⟨rfl, rfl, rfl, rfl, rfl, rfl, rfl⟩, rfl, rfl⟩

theorem Untouched.trans {a b c : State} (h : Untouched a b) (k : Untouched b c) : Untouched a c where
  pending := k.pending.trans h.pending
  link := k.link.trans h.link
  windows := k.windows.trans h.windows
  mem := k.mem.trans h.mem
  sfault := k.sfault.trans h.sfault
  free := k.free.trans h.free
  refresh := by rw [k.refresh, h.refresh]
  watch := by
    obtain ⟨h1, h2, h3, h4, h5⟩ := h.watch; obtain ⟨k1, k2, k3, k4, k5⟩ := k.watch
    exact ⟨k1.trans h1, k2.trans h2, k3.trans h3, k4.trans h4, k5.trans h5⟩
  lines n := by
    obtain ⟨h1, h2, h3, h4, h5⟩ := h.lines n; obtain ⟨k1, k2, k3, k4, k5⟩ := k.lines n
    exact ⟨k1.trans h1, k2.trans h2, k3.trans h3, k4.trans h4, k5.trans h5⟩
  channels n := by
    obtain ⟨h1, h2, h3, h4, h5, h6, h7⟩ := h.channels n; obtain ⟨k1, k2, k3, k4, k5, k6, k7⟩ := k.channels n
    exact ⟨k1.trans h1, k2.trans h2, k3.trans h3, k4.trans h4, k5.trans h5, k6.trans h6, k7.trans h7⟩
  paused := k.paused.trans h.paused
  entries := k.entries.trans h.entries

/-! ## Updates -/

@[simp] theorem Untouched.setBus (h : Untouched s t) (x : Bus) : Untouched s (t.setBus x) :=
  h.trans ⟨rfl, rfl, rfl, rfl, rfl, rfl, rfl, ⟨rfl, rfl, rfl, rfl, rfl⟩, fun _ => ⟨rfl, rfl, rfl, rfl, rfl⟩,
    fun _ => ⟨rfl, rfl, rfl, rfl, rfl, rfl, rfl⟩, rfl, rfl⟩

@[simp] theorem Untouched.setArbiter (h : Untouched s t) (x : Arbiter) : Untouched s (t.setArbiter x) :=
  h.trans ⟨rfl, rfl, rfl, rfl, rfl, rfl, rfl, ⟨rfl, rfl, rfl, rfl, rfl⟩, fun _ => ⟨rfl, rfl, rfl, rfl, rfl⟩,
    fun _ => ⟨rfl, rfl, rfl, rfl, rfl, rfl, rfl⟩, rfl, rfl⟩

@[simp] theorem Untouched.setSreset (h : Untouched s t) (x : SReset) : Untouched s (t.setSreset x) :=
  h.trans ⟨rfl, rfl, rfl, rfl, rfl, rfl, rfl, ⟨rfl, rfl, rfl, rfl, rfl⟩, fun _ => ⟨rfl, rfl, rfl, rfl, rfl⟩,
    fun _ => ⟨rfl, rfl, rfl, rfl, rfl, rfl, rfl⟩, rfl, rfl⟩

@[simp] theorem Untouched.setPort (h : Untouched s t) (x : Port) : Untouched s (t.setPort x) :=
  h.trans ⟨rfl, rfl, rfl, rfl, rfl, rfl, rfl, ⟨rfl, rfl, rfl, rfl, rfl⟩, fun _ => ⟨rfl, rfl, rfl, rfl, rfl⟩,
    fun _ => ⟨rfl, rfl, rfl, rfl, rfl, rfl, rfl⟩, rfl, rfl⟩

@[simp] theorem Untouched.setEngine (h : Untouched s t) (x : Engine) : Untouched s (t.setEngine x) :=
  h.trans ⟨rfl, rfl, rfl, rfl, rfl, rfl, rfl, ⟨rfl, rfl, rfl, rfl, rfl⟩, fun _ => ⟨rfl, rfl, rfl, rfl, rfl⟩,
    fun _ => ⟨rfl, rfl, rfl, rfl, rfl, rfl, rfl⟩, rfl, rfl⟩

@[simp] theorem Untouched.setNotices (h : Untouched s t) (x : List Notice) : Untouched s (t.setNotices x) :=
  h.trans ⟨rfl, rfl, rfl, rfl, rfl, rfl, rfl, ⟨rfl, rfl, rfl, rfl, rfl⟩, fun _ => ⟨rfl, rfl, rfl, rfl, rfl⟩,
    fun _ => ⟨rfl, rfl, rfl, rfl, rfl, rfl, rfl⟩, rfl, rfl⟩

@[simp] theorem Untouched.setCycle (h : Untouched s t) (x : Option Cycle) : Untouched s (t.setCycle x) := h.setBus _

@[simp] theorem Untouched.setGroup (h : Untouched s t) (x : Option Group) : Untouched s (t.setGroup x) := h.setBus _

@[simp] theorem Untouched.setRecord (h : Untouched s t) (x : CycleRecord) : Untouched s (t.setRecord x) := h.setBus _

@[simp] theorem Untouched.setMaster (h : Untouched s t) (x : Option MasterCycle) : Untouched s (t.setMaster x) := h.setBus _

@[simp] theorem Untouched.setElement (h : Untouched s t) (x : Option Element) : Untouched s (t.setElement x) := h.setEngine _

@[simp] theorem Untouched.setEngineState (h : Untouched s t) (x : EngineState) : Untouched s (t.setEngineState x) := h.setEngine _

@[simp] theorem Untouched.post (h : Untouched s t) (src : Source) (b : NoticeBody) : Untouched s (t.post src b) :=
  h.setNotices _

@[simp] theorem Untouched.clearPending (h : Untouched s t) :
    Untouched s (t.setRefresh { t.refresh with pending := false }) :=
  h.trans ⟨rfl, rfl, rfl, rfl, rfl, rfl, rfl, ⟨rfl, rfl, rfl, rfl, rfl⟩, fun _ => ⟨rfl, rfl, rfl, rfl, rfl⟩,
    fun _ => ⟨rfl, rfl, rfl, rfl, rfl, rfl, rfl⟩, rfl, rfl⟩

@[simp] theorem Untouched.setWatch (h : Untouched s t) (w : Watch) (h1 : w.slots = t.watch.slots)
    (h2 : w.mode = t.watch.mode) (h3 : w.interval = t.watch.interval) (h4 : w.trigger = t.watch.trigger)
    (h5 : w.stopping = t.watch.stopping) : Untouched s (t.setWatch w) :=
  h.trans ⟨rfl, rfl, rfl, rfl, rfl, rfl, rfl, ⟨h1, h2, h3, h4, h5⟩, fun _ => ⟨rfl, rfl, rfl, rfl, rfl⟩,
    fun _ => ⟨rfl, rfl, rfl, rfl, rfl, rfl, rfl⟩, rfl, rfl⟩

@[simp] theorem Untouched.setLine (h : Untouched s t) (n : Fin 8) (l : Line) (h1 : l.role = (t.line n).role)
    (h2 : l.mode = (t.line n).mode) (h3 : l.service = (t.line n).service) (h4 : l.action = (t.line n).action)
    (h5 : l.level = (t.line n).level) : Untouched s (t.setLine n l) := by
  refine h.trans ⟨rfl, rfl, rfl, rfl, rfl, rfl, rfl, ⟨rfl, rfl, rfl, rfl, rfl⟩, fun m => ?_,
    fun _ => ⟨rfl, rfl, rfl, rfl, rfl, rfl, rfl⟩, rfl, rfl⟩
  by_cases hm : m = n
  · subst hm; rw [State.line_setLine_same]; exact ⟨h1, h2, h3, h4, h5⟩
  · rw [State.line_setLine_other _ _ _ _ hm]; exact ⟨rfl, rfl, rfl, rfl, rfl⟩

@[simp] theorem Untouched.setChannel (h : Untouched s t) (n : Fin 4) (c : Channel)
    (h1 : c.config = (t.channel n).config) (h2 : c.current = (t.channel n).current)
    (h3 : c.staged = (t.channel n).staged) (h4 : c.blocksDone = (t.channel n).blocksDone)
    (h5 : c.protectHit = (t.channel n).protectHit) (h6 : c.sreq = (t.channel n).sreq)
    (h7 : c.quiescing = (t.channel n).quiescing) : Untouched s (t.setChannel n c) := by
  refine h.trans ⟨rfl, rfl, rfl, rfl, rfl, rfl, rfl, ⟨rfl, rfl, rfl, rfl, rfl⟩,
    fun _ => ⟨rfl, rfl, rfl, rfl, rfl⟩, fun m => ?_, rfl, rfl⟩
  by_cases hm : m = n
  · subst hm; rw [State.channel_setChannel_same]; exact ⟨h1, h2, h3, h4, h5, h6, h7⟩
  · rw [State.channel_setChannel_other _ _ _ _ hm]; exact ⟨rfl, rfl, rfl, rfl, rfl, rfl, rfl⟩

@[simp] theorem State.line_setChannel (s : State) (n : Fin 4) (c : Channel) (m : Fin 8) :
    (s.setChannel n c).line m = s.line m := rfl
@[simp] theorem State.channel_setPort (s : State) (p : Port) (m : Fin 4) : (s.setPort p).channel m = s.channel m := rfl
@[simp] theorem State.channel_setMaster (s : State) (x : Option MasterCycle) (m : Fin 4) :
    (s.setMaster x).channel m = s.channel m := rfl
@[simp] theorem State.channel_setArbiter (s : State) (x : Arbiter) (m : Fin 4) :
    (s.setArbiter x).channel m = s.channel m := rfl
@[simp] theorem State.channel_dropMaster (s : State) (m : Fin 4) : s.dropMaster.channel m = s.channel m := rfl

/-! ## Queue -/

theorem Untouched.setQueue (h : Untouched s t) (q : Queue) (hp : q.paused = t.queue.paused)
    (he : q.entries.map (fun e => (e.tag, e.op, e.cancel, e.progress)) =
      t.queue.entries.map fun e => (e.tag, e.op, e.cancel, e.progress)) : Untouched s (t.setQueue q) :=
  h.trans ⟨rfl, rfl, rfl, rfl, rfl, rfl, rfl, ⟨rfl, rfl, rfl, rfl, rfl⟩, fun _ => ⟨rfl, rfl, rfl, rfl, rfl⟩,
    fun _ => ⟨rfl, rfl, rfl, rfl, rfl, rfl, rfl⟩, hp, he⟩

@[simp] theorem Untouched.mapActive (h : Untouched s t) (f : Entry → Entry)
    (hf : ∀ e, ((f e).tag, (f e).op, (f e).cancel, (f e).progress) = (e.tag, e.op, e.cancel, e.progress)) :
    Untouched s (t.mapActive f) := by
  refine h.setQueue _ rfl ?_
  simp only [Queue.mapActive, List.map_map]
  refine List.map_congr_left fun e _ => ?_
  simp only [Function.comp]
  split
  · exact hf e
  · rfl

@[simp] theorem Untouched.endActive (h : Untouched s t) (st : EntryState) : Untouched s (t.endActive st) :=
  h.mapActive _ fun _ => rfl

@[simp] theorem Untouched.failActive (h : Untouched s t) (r : FailRecord) (v : Option (Word × Word)) :
    Untouched s (t.failActive r v) := by
  unfold State.failActive
  dsimp only
  apply Untouched.setQueue
  · exact h.mapActive _ fun _ => rfl
  · rfl
  · rfl

@[simp] theorem Untouched.deliver (h : Untouched s t) (src : AwaitSource) : Untouched s (t.deliver src) := by
  unfold State.deliver
  repeat' split
  all_goals simp [h]

theorem activateFirst_untouched (l : List Entry) :
    (activateFirst l).map (fun e => (e.tag, e.op, e.cancel, e.progress)) =
      l.map fun e => (e.tag, e.op, e.cancel, e.progress) := by
  induction l with
  | nil => rfl
  | cons a l ih =>
    unfold activateFirst
    split
    · rfl
    · simp [ih]

theorem Untouched.foldl {α : Type} (f : State → α → State) (hf : ∀ t a, Untouched s t → Untouched s (f t a))
    (l : List α) (h : Untouched s t) : Untouched s (l.foldl f t) := by
  induction l generalizing t with
  | nil => exact h
  | cons a l ih => exact ih (hf t a h)

/-! ## Lines -/

@[simp] theorem Untouched.postLine (h : Untouched s t) (n : Fin 8) (st : ActionStatus) (r : Option RunResult) : Untouched s (t.postLine n st r) := by
  unfold State.postLine
  try dsimp only
  repeat' split
  all_goals simp (maxDischargeDepth := 30) [h]

@[simp] theorem Untouched.takeLine (h : Untouched s t) (n : Fin 8) (p : Progress) : Untouched s (t.takeLine n p) := by
  unfold State.takeLine
  try dsimp only
  repeat' split
  all_goals simp (maxDischargeDepth := 30) [h]

@[simp] theorem Untouched.actionFailure (h : Untouched s t) (n : Fin 8) (r : FailRecord) (v : Option (Word × Word)) : Untouched s (t.actionFailure n r v) := by
  unfold State.actionFailure
  try dsimp only
  repeat' split
  all_goals simp (maxDischargeDepth := 30) [h]

/-! ## Watch unit -/

@[simp] theorem Untouched.abandonRead (h : Untouched s t) : Untouched s (t.abandonRead) := by
  unfold State.abandonRead
  try dsimp only
  repeat' split
  all_goals simp (maxDischargeDepth := 30) [h]

@[simp] theorem Untouched.discardPass (h : Untouched s t) : Untouched s (t.discardPass) := by
  unfold State.discardPass
  try dsimp only
  repeat' split
  all_goals simp (maxDischargeDepth := 30) [h]

@[simp] theorem Watch.afterPass_slots (w : Watch) : w.afterPass.slots = w.slots := by
  unfold Watch.afterPass; repeat' split
  all_goals rfl

@[simp] theorem Watch.afterPass_mode (w : Watch) : w.afterPass.mode = w.mode := by
  unfold Watch.afterPass; repeat' split
  all_goals first | rfl | simp_all

@[simp] theorem Watch.afterPass_interval (w : Watch) : w.afterPass.interval = w.interval := by
  unfold Watch.afterPass; repeat' split
  all_goals rfl

@[simp] theorem Watch.afterPass_trigger (w : Watch) : w.afterPass.trigger = w.trigger := by
  unfold Watch.afterPass; repeat' split
  all_goals rfl

@[simp] theorem Watch.afterPass_stopping (w : Watch) : w.afterPass.stopping = w.stopping := by
  unfold Watch.afterPass; repeat' split
  all_goals rfl

@[simp] theorem Untouched.watchComplete (h : Untouched s t) : Untouched s (t.watchComplete) := by
  unfold State.watchComplete
  try dsimp only
  repeat' split
  all_goals simp (maxDischargeDepth := 30) [h]

@[simp] theorem Untouched.watchStartRead (h : Untouched s t) (i : Fin 8) (e : WatchEntry) : Untouched s (t.watchStartRead i e) := by
  unfold State.watchStartRead
  try dsimp only
  repeat' split
  all_goals simp (maxDischargeDepth := 30) [h, Watch.recordReading]

/-! ## Channels -/

@[simp] theorem Untouched.postChannel (h : Untouched s t) (n : Fin 4) (r : Reason) : Untouched s (t.postChannel n r) := by
  unfold State.postChannel
  try dsimp only
  repeat' split
  all_goals simp (maxDischargeDepth := 30) [h]

@[simp] theorem Untouched.channelFault (h : Untouched s t) (n : Fin 4) (k : FaultKind) : Untouched s (t.channelFault n k) := by
  unfold State.channelFault
  try dsimp only
  repeat' split
  all_goals simp (maxDischargeDepth := 30) [h]

@[simp] theorem Untouched.dmaElementStart (h : Untouched s t) (n : Fin 4) : Untouched s (t.dmaElementStart n) := by
  unfold State.dmaElementStart
  try dsimp only
  repeat' split
  all_goals simp (maxDischargeDepth := 30) [h]

@[simp] theorem Untouched.dropMaster (h : Untouched s t) : Untouched s (t.dropMaster) := by
  unfold State.dropMaster
  try dsimp only
  repeat' split
  all_goals simp (maxDischargeDepth := 30) [h]

@[simp] theorem Untouched.withdrawGrant (h : Untouched s t) (n : Fin 4) : Untouched s (t.withdrawGrant n) := by
  unfold State.withdrawGrant
  try dsimp only
  repeat' split
  all_goals simp (maxDischargeDepth := 30) [h]

@[simp] theorem Untouched.channelLevel (h : Untouched s t) (n : Fin 4) : Untouched s (t.channelLevel n) := by
  unfold State.channelLevel
  try dsimp only
  repeat' split
  all_goals simp (maxDischargeDepth := 30) [h]

@[simp] theorem Untouched.channelLevels (h : Untouched s t) : Untouched s (t.channelLevels) := by
  exact h.foldl _ (fun _ n k => k.channelLevel n) _

@[simp] theorem Untouched.channelSresetAssert (h : Untouched s t) (n : Fin 4) : Untouched s (t.channelSresetAssert n) := by
  unfold State.channelSresetAssert
  try dsimp only
  repeat' split
  all_goals simp (maxDischargeDepth := 30) [h]

/-! ## Slot arbiter -/

@[simp] theorem Untouched.startRefresh (h : Untouched s t) (a : Arbiter) : Untouched s (t.startRefresh a) := by
  exact ((h.setArbiter a).clearPending).setCycle _

@[simp] theorem Untouched.startGroupCycle (h : Untouched s t) (g : Group) : Untouched s (t.startGroupCycle g) := by
  unfold State.startGroupCycle
  try dsimp only
  repeat' split
  all_goals simp (maxDischargeDepth := 30) [h]

@[simp] theorem Untouched.grantChannel (h : Untouched s t) (n : Fin 4) : Untouched s (t.grantChannel n) := by
  unfold State.grantChannel
  try dsimp only
  repeat' split
  all_goals simp (maxDischargeDepth := 30) [h]

@[simp] theorem Untouched.grant (h : Untouched s t) (c : Claimant) : Untouched s (t.grant c) := by
  unfold State.grant
  try dsimp only
  repeat' split
  all_goals simp (maxDischargeDepth := 30) [h]

@[simp] theorem Untouched.arbitrateExcept (h : Untouched s t) (n : Nat) (ex : Option Claimant) : Untouched s (State.arbitrateExcept n ex t) := by
  induction n generalizing t with
  | zero => exact h
  | succ n ih =>
    unfold State.arbitrateExcept
    repeat' split
    all_goals first | exact h | exact ih (h.grant _)

@[simp] theorem Untouched.arbitrate (h : Untouched s t) : Untouched s (t.arbitrate) := by
  exact h.arbitrateExcept _ _

/-! ## Memory port and SRESET -/

@[simp] theorem Untouched.portChoose (h : Untouched s t) : Untouched s (t.portChoose) := by
  unfold State.portChoose
  try dsimp only
  repeat' split
  all_goals simp (maxDischargeDepth := 30) [h]

@[simp] theorem Untouched.sresetAssert (h : Untouched s t) : Untouched s (t.sresetAssert) := by
  have k : Untouched s ((List.finRange 4).foldl State.channelSresetAssert (t.setSreset .slotReset)) :=
    (h.setSreset _).foldl _ (fun _ n k => k.channelSresetAssert n) _
  unfold State.sresetAssert
  dsimp only
  split
  · exact k.discardPass
  · exact k

/-! ## Engine -/

@[simp] theorem Untouched.engineUnit (h : Untouched s t) (o : Nat) (w : Width) (x : UnitOp) : Untouched s (t.engineUnit o w x) := by
  unfold State.engineUnit
  try dsimp only
  repeat' split
  all_goals simp (maxDischargeDepth := 30) [h]

@[simp] theorem Untouched.startCardPart (h : Untouched s t) (e : Element) : Untouched s (t.startCardPart e) := by
  unfold State.startCardPart
  try dsimp only
  repeat' split
  all_goals simp (maxDischargeDepth := 30) [h]

@[simp] theorem Untouched.startElement (h : Untouched s t) (e : Element) : Untouched s (t.startElement e) := by
  unfold State.startElement
  try dsimp only
  repeat' split
  all_goals simp (maxDischargeDepth := 30) [h]

@[simp] theorem Untouched.itemFailed (h : Untouched s t) (i : WorkItem) (r : FailRecord) (v : Option (Word × Word)) : Untouched s (t.itemFailed i r v) := by
  unfold State.itemFailed
  try dsimp only
  repeat' split
  all_goals simp (maxDischargeDepth := 30) [h]

@[simp] theorem Untouched.beginElement (h : Untouched s t) (i : WorkItem) (o : CycleOwner) (x : Op) (p : Progress) : Untouched s (t.beginElement i o x p) := by
  unfold State.beginElement
  try dsimp only
  repeat' split
  all_goals simp (maxDischargeDepth := 30) [h]

@[simp] theorem Untouched.beginAction (h : Untouched s t) (n : Fin 8) : Untouched s (t.beginAction n) := by
  unfold State.beginAction
  try dsimp only
  repeat' split
  all_goals simp (maxDischargeDepth := 30) [h]

@[simp] theorem Untouched.takePending (h : Untouched s t) (n : Fin 8) : Untouched s (t.takePending n) := by
  unfold State.takePending
  try dsimp only
  repeat' split
  all_goals simp (maxDischargeDepth := 30) [h]

@[simp] theorem Untouched.activate (h : Untouched s t) (e : Entry) : Untouched s (t.activate e) := by
  have k : Untouched s (t.setQueue { t.queue with entries := activateFirst t.queue.entries }) :=
    h.setQueue _ rfl (activateFirst_untouched _)
  unfold State.activate
  dsimp only
  split
  · exact k.sresetAssert
  · exact k

theorem Untouched.engineChoice (h : Untouched s t) (u : State) (hu : t.engineChoice = some u) : Untouched s u := by
  unfold State.engineChoice at hu
  repeat' split at hu
  all_goals cases hu
  all_goals
    first
    | exact h.beginAction _
    | exact h.takePending _
    | exact (h.setEngineState _).beginElement _ _ _ _
    | exact h.activate _

@[simp] theorem Untouched.engineRest (h : Untouched s t) : Untouched s (t.engineRest) := by
  unfold State.engineRest
  try dsimp only
  repeat' split
  all_goals simp (maxDischargeDepth := 30) [h]

@[simp] theorem Untouched.engineChoose (h : Untouched s t) (n : Nat) : Untouched s (State.engineChoose n t) := by
  induction n generalizing t with
  | zero => exact h
  | succ n ih =>
    unfold State.engineChoose
    split
    · rename_i u hu; exact ih (h.engineChoice u hu)
    · exact h.engineRest

/-! ## Settling -/

@[simp] theorem Untouched.watchReads (h : Untouched s t) (n : Nat) : Untouched s (State.watchReads n t) := by
  induction n generalizing t with
  | zero => exact h
  | succ n ih =>
    unfold State.watchReads
    repeat' split
    all_goals first | exact h | exact ih (h.watchStartRead _ _)

@[simp] theorem Untouched.sresetGrants (h : Untouched s t) : Untouched s (t.sresetGrants) :=
  ((h.channelLevels.watchReads _).arbitrate).portChoose

@[simp] theorem Untouched.watchContinue (h : Untouched s t) (n : Nat) : Untouched s (State.watchContinue n t) := by
  induction n generalizing t with
  | zero => exact h
  | succ n ih =>
    unfold State.watchContinue
    repeat' split
    all_goals first | exact h | exact ih (h.watchComplete.engineChoose _) | exact ih (h.watchStartRead _ _)

@[simp] theorem Untouched.settleBlocks (h : Untouched s t) : Untouched s (t.settleBlocks) := by
  unfold State.settleBlocks
  exact (((h.channelLevels.engineChoose _).watchContinue _).arbitrate).portChoose

end Sys2Proof.Machine
end

