-- ==== Sys2Proof/Laws/Link.lean ====
section
/-! SUPPORT. The link interface: what the arrival of a request comes to when it is taken at once, and when settling the
link is taking one message. -/

namespace Sys2Proof.Machine

variable {s t : State}

@[simp] theorem State.link_settleBlocks (s : State) : s.settleBlocks.link = s.link :=
  (Untouched.refl s).settleBlocks.link

@[simp] theorem State.link_setChannel (s : State) (n : Fin 4) (c : Channel) : (s.setChannel n c).link = s.link := rfl
@[simp] theorem State.link_setLine (s : State) (n : Fin 8) (l : Line) : (s.setLine n l).link = s.link := rfl
@[simp] theorem State.link_mapActive (s : State) (f : Entry → Entry) : (s.mapActive f).link = s.link := rfl
@[simp] theorem State.link_post (s : State) (src : Source) (b : NoticeBody) : (s.post src b).link = s.link := rfl
@[simp] theorem State.link_dropMaster (s : State) : s.dropMaster.link = s.link := rfl

@[simp] theorem State.link_endActive (s : State) (st : EntryState) : (s.endActive st).link = s.link := rfl

@[simp] theorem State.link_deliver (s : State) (src : AwaitSource) : (s.deliver src).link = s.link := by
  unfold State.deliver
  repeat' split
  all_goals rfl

@[simp] theorem State.link_postLine (s : State) (n : Fin 8) (st : ActionStatus) (r : Option RunResult) :
    (s.postLine n st r).link = s.link := by
  simp [State.postLine]

@[simp] theorem State.link_lineToPending (s : State) (n : Fin 8) : (s.lineToPending n).link = s.link := by
  unfold State.lineToPending
  dsimp only
  split <;> simp

@[simp] theorem State.link_lineEvent (s : State) (n : Fin 8) : (s.lineEvent n).link = s.link := by
  unfold State.lineEvent
  dsimp only
  split <;> simp

@[simp] theorem State.link_lineLevelRule (s : State) (n : Fin 8) : (s.lineLevelRule n).link = s.link := by
  unfold State.lineLevelRule
  dsimp only
  split <;> simp

theorem State.link_foldl {α : Type} (f : State → α → State) (hf : ∀ s a, (f s a).link = s.link) (l : List α)
    (s : State) : (l.foldl f s).link = s.link := by
  induction l generalizing s with
  | nil => rfl
  | cons a l ih => rw [List.foldl_cons, ih, hf]

@[simp] theorem State.link_linesLevelRule (s : State) : s.linesLevelRule.link = s.link :=
  State.link_foldl _ (fun s n => s.link_lineLevelRule n) _ s

@[simp] theorem State.link_sresetRelease (s : State) : s.sresetRelease.link = s.link := by
  simp [State.sresetRelease]

@[simp] theorem State.link_sresetGrants (s : State) : s.sresetGrants.link = s.link :=
  (Untouched.refl s).sresetGrants.link

@[simp] theorem State.link_sresetReleased (s : State) : s.sresetReleased.link = s.link :=
  (State.link_sresetGrants _).trans s.link_sresetRelease

@[simp] theorem State.link_channelLevel (s : State) (n : Fin 4) : (s.channelLevel n).link = s.link :=
  ((Untouched.refl s).channelLevel n).link

@[simp] theorem State.link_abandonRead (s : State) : s.abandonRead.link = s.link := (Untouched.refl s).abandonRead.link

@[simp] theorem State.link_discardPass (s : State) : s.discardPass.link = s.link := (Untouched.refl s).discardPass.link

@[simp] theorem State.link_watchBegin (s : State) : s.watchBegin.link = s.link := by
  simp [State.watchBegin]

@[simp] theorem State.link_withdrawGrant (s : State) (n : Fin 4) : (s.withdrawGrant n).link = s.link :=
  ((Untouched.refl _).withdrawGrant n).link.trans rfl

/-! ## Taking a message -/

@[simp] theorem State.pipe_takeQueued (s : State) : s.takeQueued.link.pipe = s.link.pipe := by
  unfold State.takeQueued State.takeNotice State.noticeSent State.channelNoticeSent State.setReport
  dsimp only
  repeat' split
  all_goals rfl

@[simp] theorem State.pipe_takeMessage (s : State) : s.takeMessage.link.pipe = s.link.pipe := by
  unfold State.takeMessage
  repeat' split
  all_goals simp

theorem State.drain_nil (h : s.link.pipe = []) : s.drain [] = s := by
  cases s with | mk pending link => cases link; simp_all [State.drain, State.setLink]

/-- With no transfer waiting, settling a CONFIGURED link is taking one message. -/
theorem State.settleLink_takes (h : s.link.state = .configured) (hp : s.link.pipe = []) :
    s.settleLink = s.takeMessage := by
  simp only [State.settleLink, h, hp]
  exact State.drain_nil (by simp [hp])

/-- A transfer that arrives at a listening link is taken, and then one message is. -/
theorem State.Listening.arrive (h : s.Listening) (f : Framed) (hp : (s.takeFramed f).link.pipe = []) :
    s.arrive f = (s.takeFramed f).takeMessage := by
  simp only [State.arrive, h.configured, h.noneWaiting, List.nil_append, State.drain, h.empty]
  exact State.drain_nil (by simp [hp])

/-- A reply formed while the request is taken goes out at once or waits in the slot. -/
theorem State.takeMessage_replied (h : s.Listening) (r : Reply) (x : State) (hx : x.link = s.link) :
    (x.setSlot (.ready r)).takeMessage = x.replied r := by
  obtain ⟨h1, h2, h3⟩ := h
  cases hr : s.link.report <;>
    simp [State.takeMessage, State.replied, State.setSlot, State.setLink, hx, h1, hr]

/-- A request that is answered when it is taken. -/
theorem State.Listening.answered (h : s.Listening) (r : HostRequest) (hl : r.length ≤ 1100) (x : State)
    (hx : x.link = s.link) (p : Reply) (hs : s.serve r = x.setSlot (.ready p)) :
    s.arrive (.request r) = x.replied p := by
  have e : s.takeFramed (.request r) = x.setSlot (.ready p) := by
    simp only [State.takeFramed]
    rw [if_neg (by simpa [Config.maxMessage] using hl), hs]
  rw [h.arrive _ (by rw [e]; simp [State.setSlot, hx, h.noneWaiting]), e]
  exact State.takeMessage_replied h p x hx

/-- A request whose taking settles the blocks. -/
theorem State.Listening.settled (h : s.Listening) (r : HostRequest) (hl : r.length ≤ 1100) (x : State)
    (hx : x.link.state = s.link.state) (hx' : x.link.pipe = s.link.pipe) (hs : s.serve r = x.settleBlocks) :
    s.arrive (.request r) = x.settle := by
  have e : s.takeFramed (.request r) = x.settleBlocks := by
    simp only [State.takeFramed]
    rw [if_neg (by simpa [Config.maxMessage] using hl), hs]
  have hp : x.settleBlocks.link.pipe = [] := by simp [hx', h.noneWaiting]
  rw [h.arrive _ (by rw [e]; exact hp), e]
  exact (State.settleLink_takes (by simp [hx, h.configured]) hp).symm

/-- While the link is DETACHED a transfer changes nothing. -/
theorem State.arrive_detached (h : s.link.state = .detached) (f : Framed) : s.arrive f = s := by
  simp [State.arrive, h]

/-- While the slot is held a transfer waits. -/
theorem State.arrive_held (h : s.link.state = .configured) (hs : s.link.slot ≠ .empty) (f : Framed) :
    s.arrive f = s.setLink { s.link with pipe := s.link.pipe ++ [f] } := by
  simp only [State.arrive, h]
  cases hp : s.link.pipe <;> simp only [List.nil_append, List.cons_append, State.drain] <;> split <;> simp_all

/-- A command that is a request is the arrival of that request. -/
theorem exec_request {i : Instr} {r : HostRequest} (h : i.request? = some r) (s : State) :
    exec i s = .next (s.arrive (.request r)) := by
  cases i <;> simp only [Instr.request?, Option.some.injEq, reduceCtorEq] at h <;> subst h <;> rfl

theorem HostRequest.length_le {r : HostRequest} (h : r.wf = true) : r.length ≤ 1100 := by
  simp only [HostRequest.wf, Config.maxMessage, Bool.and_eq_true] at h
  exact of_decide_eq_true h.1

theorem State.answer_eq (s : State) (k : Byte) (tag : Word) (st : Status) (b : ReplyBody) :
    s.answer k tag st b = s.setSlot (.ready ⟨k ||| 0x80, st, tag, b⟩) := rfl

theorem State.refuse_eq (s : State) (k : Byte) (tag : Word) (st : Status) :
    s.refuse k tag st = s.setSlot (.ready ⟨k ||| 0x80, st, tag, .none⟩) := rfl

end Sys2Proof.Machine
end

