-- ==== Sys2Proof/Laws/Memory.lean ====
section
/-! SUPPORT. Base memory: a stored byte reads back, every other byte reads as before, and every operation keeps the
canonical form. -/

namespace Sys2Proof.Machine

theorem Mem.get_put_same (m : Mem) (a : Nat) (v : Byte) (h : Mem.wf m = true) : Mem.get (Mem.put m a v) a = v := by
  induction m with
  | nil => unfold Mem.put; split <;> simp_all [Mem.get]
  | cons c m ih =>
    obtain ⟨k, b⟩ := c
    have hm : Mem.wf m = true := by
      cases m with
      | nil => rfl
      | cons d m => simp [Mem.wf] at h; exact h.2
    have hlow : ∀ (m : Mem) (k : Nat) (b : Byte), Mem.wf ((k, b) :: m) = true → ∀ a, a ≤ k → Mem.get m a = 0 := by
      intro m
      induction m with
      | nil => intros; rfl
      | cons d m ih =>
        obtain ⟨k', b'⟩ := d
        intro k b h a ha
        simp [Mem.wf] at h
        have := ih k' b' h.2 a (by omega)
        simp only [Mem.get]
        rw [if_neg (by omega)]
        exact this
    unfold Mem.put
    split
    · rename_i hlt
      split
      · rename_i hv
        simp only [Mem.get]
        rw [if_neg (by omega), hlow m k b h a (by omega), hv]
      · simp [Mem.get]
    · split
      · rename_i heq
        subst heq
        split
        · rename_i hv; rw [hlow m a b h a (by omega), hv]
        · simp [Mem.get]
      · simp only [Mem.get]
        rw [if_neg (by omega)]
        exact ih hm

theorem Mem.get_put_other (m : Mem) (a a' : Nat) (v : Byte) (h : a' ≠ a) : Mem.get (Mem.put m a v) a' = Mem.get m a' := by
  induction m with
  | nil => unfold Mem.put; split <;> simp [Mem.get]; omega
  | cons c m ih =>
    obtain ⟨k, b⟩ := c
    unfold Mem.put
    split
    · split
      · rfl
      · simp only [Mem.get]; rw [if_neg (by omega)]
    · split
      · rename_i heq
        subst heq
        split
        · simp only [Mem.get]; rw [if_neg (by omega)]
        · simp only [Mem.get]; rw [if_neg (by omega), if_neg (by omega)]
      · simp only [Mem.get]; rw [ih]

/-- Every listed offset lies above a bound. -/
def Mem.above (lo : Nat) (m : Mem) : Prop := ∀ p ∈ m, lo < p.1

theorem Mem.wf_cons (k : Nat) (b : Byte) (m : Mem) :
    Mem.wf ((k, b) :: m) = true ↔ b ≠ 0 ∧ Mem.above k m ∧ Mem.wf m = true := by
  induction m generalizing k b with
  | nil => simp [Mem.wf, Mem.above]
  | cons d m ih =>
    obtain ⟨k', b'⟩ := d
    simp only [Mem.wf, Bool.and_eq_true, bne_iff_ne, decide_eq_true_eq]
    constructor
    · rintro ⟨⟨hb, hk⟩, h⟩
      refine ⟨hb, ?_, h⟩
      have := (ih k' b').mp h
      intro p hp
      rcases List.mem_cons.mp hp with rfl | hp
      · exact hk
      · exact Nat.lt_trans hk (this.2.1 p hp)
    · rintro ⟨hb, ha, h⟩
      exact ⟨⟨hb, ha _ (List.mem_cons_self ..)⟩, h⟩

theorem Mem.above_put (lo : Nat) (m : Mem) (a : Nat) (v : Byte) (hm : Mem.above lo m) (ha : lo < a) :
    Mem.above lo (Mem.put m a v) := by
  induction m with
  | nil =>
    unfold Mem.put
    split
    · exact hm
    · intro p hp; simp at hp; subst hp; exact ha
  | cons c m ih =>
    obtain ⟨k, b⟩ := c
    have h1 : lo < k := hm _ (List.mem_cons_self ..)
    have h2 : Mem.above lo m := fun p hp => hm p (List.mem_cons_of_mem _ hp)
    unfold Mem.put
    split
    · split
      · exact hm
      · intro p hp
        rcases List.mem_cons.mp hp with rfl | hp
        · exact ha
        · exact hm p hp
    · split
      · split
        · exact h2
        · intro p hp
          rcases List.mem_cons.mp hp with rfl | hp
          · exact ha
          · exact h2 p hp
      · intro p hp
        rcases List.mem_cons.mp hp with rfl | hp
        · exact h1
        · exact ih h2 p hp

theorem Mem.wf_put (m : Mem) (a : Nat) (v : Byte) (h : Mem.wf m = true) : Mem.wf (Mem.put m a v) = true := by
  induction m with
  | nil => unfold Mem.put; split <;> simp_all [Mem.wf]
  | cons c m ih =>
    obtain ⟨k, b⟩ := c
    have h0 := (Mem.wf_cons k b m).mp h
    unfold Mem.put
    split
    · rename_i hlt
      split
      · exact h
      · rename_i hv
        refine (Mem.wf_cons a v ((k, b) :: m)).mpr ⟨hv, ?_, h⟩
        intro p hp
        rcases List.mem_cons.mp hp with rfl | hp
        · exact hlt
        · exact Nat.lt_trans hlt (h0.2.1 p hp)
    · split
      · rename_i heq
        subst heq
        split
        · exact h0.2.2
        · rename_i hv; exact (Mem.wf_cons a v m).mpr ⟨hv, h0.2.1, h0.2.2⟩
      · exact (Mem.wf_cons _ _ _).mpr ⟨h0.1, Mem.above_put _ _ _ _ h0.2.1 (by omega), ih h0.2.2⟩

theorem Mem.wf_writeUnit (m : Mem) (a : Nat) (w : Width) (v : Word) (h : Mem.wf m = true) :
    Mem.wf (Mem.writeUnit m a w v) = true := by
  cases w
  · exact Mem.wf_put m a _ h
  · exact Mem.wf_put _ (a + 1) _ (Mem.wf_put m a _ h)

theorem Mem.get_writeUnit_outside (m : Mem) (a : Nat) (w : Width) (v : Word) (a' : Nat)
    (h : a' < a ∨ a + w.bytes ≤ a') : Mem.get (Mem.writeUnit m a w v) a' = Mem.get m a' := by
  cases w
  · simp only [Mem.writeUnit, Width.bytes] at *
    exact Mem.get_put_other _ _ _ _ (by omega)
  · simp only [Mem.writeUnit, Width.bytes] at *
    rw [Mem.get_put_other _ _ _ _ (by omega), Mem.get_put_other _ _ _ _ (by omega)]

theorem Mem.get_writeUnit_low (m : Mem) (a : Nat) (w : Width) (v : Word) (h : Mem.wf m = true) :
    Mem.get (Mem.writeUnit m a w v) a = lowByte v := by
  cases w
  · exact Mem.get_put_same m a _ h
  · simp only [Mem.writeUnit]
    rw [Mem.get_put_other _ _ _ _ (by omega), Mem.get_put_same m a _ h]

theorem Mem.get_writeUnit_high (m : Mem) (a : Nat) (v : Word) (h : Mem.wf m = true) :
    Mem.get (Mem.writeUnit m a .two v) (a + 1) = highByte v := by
  simp only [Mem.writeUnit]
  exact Mem.get_put_same _ _ _ (Mem.wf_put m a _ h)

/-- A served unit keeps the canonical form. -/
theorem MemUnit.wf_serve (u : MemUnit) (m : Mem) (h : Mem.wf m = true) : Mem.wf (u.serve m).1 = true := by
  unfold MemUnit.serve
  cases u.op
  · exact h
  · exact Mem.wf_writeUnit _ _ _ _ h
  · exact Mem.wf_writeUnit _ _ _ _ h

/-- A served unit changes no byte outside its own one or two. -/
theorem MemUnit.get_serve_outside (u : MemUnit) (m : Mem) (a : Nat) (h : a < u.offset ∨ u.offset + u.width.bytes ≤ a) :
    Mem.get (u.serve m).1 a = Mem.get m a := by
  unfold MemUnit.serve
  cases u.op
  · rfl
  · exact Mem.get_writeUnit_outside _ _ _ _ _ h
  · exact Mem.get_writeUnit_outside _ _ _ _ _ h

end Sys2Proof.Machine
end

