-- ==== Sys2Proof/Laws/Requests.lean ====
section
/-! SUPPORT. `Promises s t`: each promise of Safety.lean that holds before holds after. Every taking of a request, every
message taken and every settling keeps them all. -/

namespace Sys2Proof.Machine

/-- Each promise, on its own, is kept, and the commands waiting stay. -/
structure Promises (s t : State) : Prop where
  pending : t.pending = s.pending
  windows : windowsOk s.windows → windowsOk t.windows
  mem : memoryOk s → memoryOk t
  queue : queueOk s.queue → queueOk t.queue
  active : activeOk s.queue → activeOk t.queue
  notices : noticesOk s.notices → noticesOk t.notices
  channels : channelsOk s → channelsOk t

@[simp] theorem Promises.refl (s : State) : Promises s s := ⟨rfl, id, id, id, id, id, id⟩

theorem Promises.trans {a b c : State} (h : Promises a b) (k : Promises b c) : Promises a c :=
  ⟨k.pending.trans h.pending, k.windows ∘ h.windows, k.mem ∘ h.mem, k.queue ∘ h.queue, k.active ∘ h.active,
    k.notices ∘ h.notices, k.channels ∘ h.channels⟩

theorem EntriesKept.tags {l m : List Entry} (h : EntriesKept l m) : m.map Entry.tag = l.map Entry.tag := by
  induction h with
  | nil => rfl
  | cons h _ ih => simp [h.tag, ih]

theorem EntriesKept.length {l m : List Entry} (h : EntriesKept l m) : m.length = l.length := by
  have := congrArg List.length h.tags
  simpa using this

/-- What keeps, keeps the promises. -/
theorem Keeps.promises {s t : State} (h : Keeps s t) : Promises s t where
  pending := h.pending
  windows k := h.windows ▸ k
  mem k := by unfold memoryOk at *; rw [h.mem]; exact k
  queue k := ⟨by rw [h.entries.length]; exact k.1, by rw [h.entries.tags]; exact k.2⟩
  active := h.active
  notices := h.notices
  channels := h.channels

variable {s t : State}

theorem Promises.keeps (h : Promises s t) {u : State} (k : Keeps t u) : Promises s u := h.trans k.promises

/-! ## The plain updates outside the blocks -/

theorem Promises.setLink (h : Promises s t) (x : Link) : Promises s (t.setLink x) :=
  h.trans ⟨rfl, id, id, id, id, id, id⟩

theorem Promises.setWindows (h : Promises s t) (x : Vector (Option Window) 16)
    (hx : windowsOk t.windows → windowsOk x) : Promises s (t.setWindows x) :=
  h.trans ⟨rfl, hx, id, id, id, id, id⟩

theorem Promises.setMem (h : Promises s t) (m : Mem) (hm : Mem.wf t.mem = true → Mem.wf m = true) :
    Promises s (t.setMem m) :=
  h.trans ⟨rfl, id, hm, id, id, id, id⟩

theorem Promises.setQueue (h : Promises s t) (q : Queue) (hq : queueOk t.queue → queueOk q)
    (ha : activeOk t.queue → activeOk q) : Promises s (t.setQueue q) :=
  h.trans ⟨rfl, id, id, hq, ha, id, id⟩

theorem Promises.setNotices (h : Promises s t) (ns : List Notice) (hn : noticesOk t.notices → noticesOk ns) :
    Promises s (t.setNotices ns) :=
  h.trans ⟨rfl, id, id, id, id, hn, id⟩

/-! ## The window table -/

theorem Window.overlaps_comm (a b : Window) : a.overlaps b = b.overlaps a := by
  unfold Window.overlaps
  rw [Bool.eq_iff_iff]
  simp only [Bool.and_eq_true, decide_eq_true_eq]
  constructor <;> (rintro ⟨⟨h1, h2⟩, h3⟩; exact ⟨⟨h1.symm, h3⟩, h2⟩)

/-- A passed WindowSet keeps the table's promises (R19). -/
theorem windowsOk_set {ws : Vector (Option Window) 16} {f : WindowFields} {n : Fin 16} {w : Window}
    (h : windowsOk ws) (hc : checkWindow f = some (n, w)) (ho : overlapsOther ws n w = false) :
    windowsOk (ws.set n.val (some w)) := by
  have hother : ∀ (i : Fin 16) (a : Window), i ≠ n → ws[i.val] = some a → w.overlaps a = false := by
    intro i a hi ha
    unfold overlapsOther at ho
    rw [List.any_eq_false] at ho
    have := ho i (List.mem_finRange i)
    simpa [hi, ha] using this
  have hget : ∀ i : Fin 16, (ws.set n.val (some w))[i.val] = if i = n then some w else ws[i.val] := by
    intro i
    by_cases hi : i = n
    · subst hi; simp
    · rw [if_neg hi]; exact Vector.getElem_set_ne _ _ (by intro e; exact hi (Fin.ext e.symm))
  refine ⟨?_, ?_⟩
  · intro i j a b ha hb hij
    rw [hget] at ha hb
    split at ha
    · rename_i hi
      cases ha
      rw [if_neg (by rintro rfl; exact hij (hi.trans rfl))] at hb
      exact hother j b (by rintro rfl; exact hij hi) hb
    · rename_i hi
      split at hb
      · cases hb
        rw [Window.overlaps_comm]
        exact hother i a hi ha
      · exact h.1 i j a b ha hb hij
  · intro i a ha hb
    rw [hget] at ha
    split at ha
    · cases ha
      unfold checkWindow at hc
      simp only [Option.bind_eq_bind, Option.bind_eq_some_iff] at hc
      obtain ⟨_, _, sp, _, ow, _, _, _, _, _, hc⟩ := hc
      split at hc
      · rename_i hcond
        simp at hc
        obtain ⟨_, rfl⟩ := hc
        exact hcond.2.2.2.2 hb
      · exact absurd hc (by simp)
    · exact h.2 i a ha hb

theorem windowsOk_clear {ws : Vector (Option Window) 16} {n : Fin 16} (h : windowsOk ws) :
    windowsOk (ws.set n.val none) := by
  have hget : ∀ (i : Fin 16) (a : Window), (ws.set n.val none)[i.val] = some a → ws[i.val] = some a := by
    intro i a ha
    by_cases hi : i = n
    · subst hi; simp at ha
    · rwa [Vector.getElem_set_ne _ _ (by intro e; exact hi (Fin.ext e.symm))] at ha
  exact ⟨fun i j a b ha hb hij => h.1 i j a b (hget i a ha) (hget j b hb) hij,
    fun i a ha hb => h.2 i a (hget i a ha) hb⟩

theorem windowsOk_initial : windowsOk windowsInitial := by
  have hget : ∀ (i : Fin 16) (a : Window), windowsInitial[i.val] = some a → i = 0 ∧ a = Window.initial := by decide
  refine ⟨fun i j a b ha hb hij => ?_, fun i a ha _ => ?_⟩
  · exact absurd ((hget i a ha).1.trans (hget j b hb).1.symm) hij
  · obtain ⟨_, rfl⟩ := hget i a ha; exact ⟨rfl, by decide⟩

/-! ## Queue -/

theorem EntriesKept.queueOk {q q' : Queue} (h : EntriesKept q.entries q'.entries) (k : queueOk q) : queueOk q' :=
  ⟨by rw [h.length]; exact k.1, by rw [h.tags]; exact k.2⟩

theorem Promises.noData (h : Promises s t) (k : Byte) (tag : Word) (d : List Byte) (e : State) (he : Promises s e) :
    Promises s (t.noData k tag d e) := by
  unfold State.noData
  split
  · exact he
  · exact h.keeps (Keeps.refl t |>.refuse k tag .badField)

/-- An accepted request goes to the tail (R50). -/
theorem Promises.admission (h : Promises s t) (k : Byte) (tag : Word) (op : Option Op) :
    Promises s (t.admission k tag op) := by
  unfold State.admission
  split
  · exact h.keeps ((Keeps.refl t).refuse ..)
  · split
    · exact h.keeps ((Keeps.refl t).refuse ..)
    · split
      · exact h.keeps ((Keeps.refl t).refuse ..)
      · rename_i op hdup hfull
        refine (h.setQueue _ ?_ ?_).keeps (Keeps.refl _).settleBlocks
        · intro q
          refine ⟨by simp; omega, ?_⟩
          simp only [List.map_append, List.nodup_append, List.map_cons, List.map_nil]
          refine ⟨q.2, by simp, ?_⟩
          intro a ha b hb
          simp at hb ha hdup
          subst hb
          obtain ⟨e, he, rfl⟩ := ha
          exact hdup e he
        · intro q
          refine ⟨?_, ?_⟩
          · simp only [List.pairwise_append]
            refine ⟨q.order, by simp, ?_⟩
            intro a _ b hb
            simp at hb
            subst hb
            simp [Entry.fresh]
          · intro hx e he
            simp at he
            rcases he with he | rfl
            · exact q.halted hx e he
            · simp [Entry.fresh]

theorem activeOk_tail {q : Queue} {e : Entry} {es : List Entry} (hq : q.entries = e :: es) (h : activeOk q) :
    activeOk { q with entries := es } := by
  refine ⟨?_, fun hx e' he' => h.halted hx e' (by rw [hq]; exact List.mem_cons_of_mem _ he')⟩
  have := h.order
  rw [hq] at this
  exact (List.pairwise_cons.mp this).2

/-! ## Messages -/

theorem Promises.takeNotice (h : Promises s t) : Promises s t.takeNotice := by
  unfold State.takeNotice
  split
  · rename_i n ns hn
    refine (Promises.keeps (h.setNotices ns ?_) ((Keeps.refl _).noticeSent n)).setLink _
    intro k
    unfold noticesOk at *
    rw [hn] at k
    exact (List.nodup_cons.mp k).2
  · exact h

theorem Promises.takeQueued (h : Promises s t) : Promises s t.takeQueued := by
  unfold State.takeQueued
  split
  · rename_i e es he
    split
    · refine (h.setQueue _ ?_ (activeOk_tail he)).setLink _
      intro k
      refine ⟨?_, ?_⟩
      · have := k.1; rw [he] at this; simp at this ⊢; omega
      · have := k.2; rw [he] at this; exact (List.nodup_cons.mp this).2
    · exact h.takeNotice
  · exact h.takeNotice

theorem Promises.takeMessage (h : Promises s t) : Promises s t.takeMessage := by
  unfold State.takeMessage
  repeat' split
  all_goals first | exact h | exact h.setLink _ | exact h.takeQueued

/-! ## Requests -/

theorem Promises.partResetBlocks (t : State) : Promises t t.partResetBlocks where
  pending := rfl
  windows _ := windowsOk_initial
  mem k := k
  queue _ := ⟨Nat.zero_le _, by simp [State.partResetBlocks, Queue.initial]⟩
  active _ := ⟨by simp [State.partResetBlocks, Queue.initial], by simp [State.partResetBlocks, Queue.initial]⟩
  notices _ := by simp [State.partResetBlocks, noticesOk]
  channels _ n := by
    refine Channel.Ok.empty ?_ ?_ <;> simp [State.channel, State.partResetBlocks, Channel.initial]

theorem Promises.takePartReset (h : Promises s t) (tag : Word) (d : List Byte) : Promises s (t.takePartReset tag d) :=
  h.noData _ _ _ _ ((h.trans (Promises.partResetBlocks t)).setLink _)

theorem Promises.takeWindowSet (h : Promises s t) (tag : Word) (f : WindowFields) (d : List Byte) :
    Promises s (t.takeWindowSet tag f d) := by
  refine h.noData _ _ _ _ ?_
  split
  · exact h.keeps ((Keeps.refl t).refuse ..)
  · rename_i n w hc
    split
    · exact h.keeps ((Keeps.refl t).refuse ..)
    · rename_i ho
      exact (h.setWindows _ fun k => windowsOk_set k hc (by simpa using ho)).keeps ((Keeps.refl _).answer ..)

theorem Promises.takeWindowClear (h : Promises s t) (tag : Word) (e : Byte) (d : List Byte) :
    Promises s (t.takeWindowClear tag e d) := by
  refine h.noData _ _ _ _ ?_
  split
  · exact h.keeps ((Keeps.refl t).refuse ..)
  · exact (h.setWindows _ windowsOk_clear).keeps ((Keeps.refl _).answer ..)

theorem Keeps.takeChannelSet (t : State) (tag : Word) (f : ChannelFields) (d : List Byte) :
    Keeps t (t.takeChannelSet tag f d) := by
  unfold State.takeChannelSet State.noData
  split
  · split
    · exact (Keeps.refl t).refuse ..
    · dsimp only
      split
      · exact (Keeps.refl t).refuse ..
      · apply Keeps.settleBlocks
        apply Keeps.answer
        apply Keeps.channelLevel
        exact Keeps.setChannel (Keeps.refl t) _ _ fun _ => Channel.Ok.empty rfl rfl
  · exact (Keeps.refl t).refuse ..

theorem checkStage_ok {f : StageFields} {n : Fin 4} {b : Block} (h : checkStage f = some (n, b)) : b.ok := by
  unfold checkStage at h
  simp only [Option.bind_eq_bind, Option.bind_eq_some_iff] at h
  obtain ⟨_, _, c, hc, _, _, h⟩ := h
  split at h
  · simp at h
    obtain ⟨_, rfl⟩ := h
    unfold checkCount at hc
    split at hc
    · simp at hc; simp only [Block.ok]; omega
    · exact absurd hc (by simp)
  · exact absurd h (by simp)

theorem Keeps.takeChannelStage (t : State) (tag : Word) (f : StageFields) (d : List Byte) :
    Keeps t (t.takeChannelStage tag f d) := by
  unfold State.takeChannelStage State.noData
  split
  · split
    · exact (Keeps.refl t).refuse ..
    · rename_i n b hb
      have hok := checkStage_ok hb
      dsimp only
      split
      · exact (Keeps.refl t).refuse ..
      · split
        · rename_i hcur
          apply Keeps.settleBlocks
          apply Keeps.answer
          refine Keeps.setChannel (Keeps.refl t) _ _ fun k => ⟨by simp, ?_, k.staged⟩
          intro b' hb'; simp at hb'; subst hb'; exact hok
        · rename_i hcur hst
          apply Keeps.answer
          refine Keeps.setChannel (Keeps.refl t) _ _ fun k => ⟨by simp [hcur], k.current, ?_⟩
          intro b' hb'; simp at hb'; subst hb'; exact hok
        · exact (Keeps.refl t).refuse ..
  · exact (Keeps.refl t).refuse ..

theorem Keeps.lineRelease (h : Keeps s t) (n : Fin 8) : Keeps s (t.lineRelease n) := by
  unfold State.lineRelease
  dsimp only
  repeat' split
  all_goals simp (maxDischargeDepth := 30) [h]

theorem Keeps.takeLineSet (t : State) (tag : Word) (f : LineFields) (d : List Byte) :
    Keeps t (t.takeLineSet tag f d) := by
  unfold State.takeLineSet
  dsimp only
  repeat' split
  all_goals simp (maxDischargeDepth := 30)

theorem Keeps.takeLineEnd (t : State) (tag : Word) (n : Byte) (d : List Byte) : Keeps t (t.takeLineEnd tag n d) := by
  unfold State.takeLineEnd State.noData
  repeat' split
  · exact (Keeps.refl t).refuse ..
  · exact Keeps.settleBlocks (Keeps.answer (Keeps.lineRelease (Keeps.refl t) _) ..)
  · exact (Keeps.refl t).refuse ..
  · exact (Keeps.refl t).refuse ..

theorem Keeps.takeWatchStop (t : State) (tag : Word) (d : List Byte) : Keeps t (t.takeWatchStop tag d) := by
  unfold State.takeWatchStop State.noData
  dsimp only
  repeat' split
  all_goals simp (maxDischargeDepth := 30)

/-- A change of QUEUED entries into finished ones, the flags `halted` set only where it was (R56, R57). -/
theorem Promises.finishQueued (h : Promises s t) (f : Entry → Entry) (q : Queue) (hq : q.entries = t.queue.entries.map f)
    (htag : ∀ e, (f e).tag = e.tag) (hact : ∀ e ∈ t.queue.entries, (f e).state = .active → e.state = .active)
    (hfin : ∀ e ∈ t.queue.entries, e.isFinished = true → (f e).isFinished = true)
    (hh : q.halted = true → t.queue.halted = true) : Promises s (t.setQueue q) := by
  refine h.setQueue q ?_ fun k => k.map f q hq hact hfin fun hx => .inl (hh hx)
  intro k
  refine ⟨by rw [hq]; simpa using k.1, ?_⟩
  rw [hq, List.map_map]
  have : Entry.tag ∘ f = Entry.tag := funext htag
  rw [this]; exact k.2

theorem Promises.takeQueueFlush (h : Promises s t) (tag : Word) (d : List Byte) :
    Promises s (t.takeQueueFlush tag d) := by
  refine h.noData _ _ _ _ ?_
  refine Promises.keeps ?_ (Keeps.settleBlocks (Keeps.answer (Keeps.refl _) ..))
  refine h.finishQueued Entry.flush _ rfl ?_ ?_ ?_ (by simp)
  · intro e; unfold Entry.flush; split <;> rfl
  · intro e _ hx; unfold Entry.flush at hx; split at hx <;> simp_all
  · intro e _ hx; unfold Entry.flush; split
    · rfl
    · exact hx

theorem Promises.queueFlags (h : Promises s t) (p x : Bool) (hx : x = true → t.queue.halted = true) :
    Promises s (t.setQueue { t.queue with paused := p, halted := x }) :=
  h.setQueue _ id fun k => ⟨k.order, fun hh => k.halted (hx hh)⟩

theorem Keeps.cancelActive (h : Keeps s t) (e : Entry) : Keeps s (t.cancelActive e) := by
  unfold State.cancelActive
  dsimp only
  repeat' split
  all_goals simp (maxDischargeDepth := 30) [h]

theorem Promises.takeQueueCancel (h : Promises s t) (tag g : Word) (d : List Byte) :
    Promises s (t.takeQueueCancel tag g d) := by
  refine h.noData _ _ _ _ ?_
  split
  · exact h.keeps ((Keeps.refl t).refuse ..)
  · split
    · refine Promises.keeps ?_ (Keeps.settleBlocks (Keeps.answer (Keeps.refl _) ..))
      refine h.finishQueued (fun e => if e.tag = g then { e with state := .cancelled } else e) _ rfl ?_ ?_ ?_ id
      · intro e; split <;> rfl
      · intro e _ hx; split at hx
        · exact absurd hx (by simp)
        · exact hx
      · intro e _ hx; split
        · rfl
        · exact hx
    · exact h.keeps (Keeps.settleBlocks (Keeps.answer (Keeps.cancelActive (Keeps.refl t) _) ..))
    all_goals exact h.keeps ((Keeps.refl t).refuse ..)

theorem Keeps.takeIdentify (t : State) (tag : Word) (d : List Byte) : Keeps t (t.takeIdentify tag d) := by
  unfold State.takeIdentify State.noData
  try dsimp only
  repeat' split
  all_goals simp (maxDischargeDepth := 30)

theorem Keeps.takeStatusGet (t : State) (tag : Word) (d : List Byte) : Keeps t (t.takeStatusGet tag d) := by
  unfold State.takeStatusGet State.noData
  try dsimp only
  repeat' split
  all_goals simp (maxDischargeDepth := 30)

theorem Keeps.takeWindowList (t : State) (tag : Word) (d : List Byte) : Keeps t (t.takeWindowList tag d) := by
  unfold State.takeWindowList State.noData
  try dsimp only
  repeat' split
  all_goals simp (maxDischargeDepth := 30)

theorem Keeps.takeMemoryRead (t : State) (tag : Word) (o : BitVec 24) (n : Word) (d : List Byte) : Keeps t (t.takeMemoryRead tag o n d) := by
  unfold State.takeMemoryRead State.noData
  try dsimp only
  repeat' split
  all_goals simp (maxDischargeDepth := 30)

theorem Keeps.takeMemoryWrite (t : State) (tag : Word) (o : BitVec 24) (d : List Byte) : Keeps t (t.takeMemoryWrite tag o d) := by
  unfold State.takeMemoryWrite
  try dsimp only
  repeat' split
  all_goals simp (maxDischargeDepth := 30)

theorem Keeps.takeMemoryFill (t : State) (tag : Word) (o n : BitVec 24) (p : Byte) (d : List Byte) : Keeps t (t.takeMemoryFill tag o n p d) := by
  unfold State.takeMemoryFill State.noData
  try dsimp only
  repeat' split
  all_goals simp (maxDischargeDepth := 30)

theorem Keeps.takeRefreshSet (t : State) (tag : Word) (p c : Byte) (d : List Byte) : Keeps t (t.takeRefreshSet tag p c d) := by
  unfold State.takeRefreshSet State.noData
  try dsimp only
  repeat' split
  all_goals simp (maxDischargeDepth := 30)

theorem Keeps.takeChannelQuiesce (t : State) (tag : Word) (c : Byte) (d : List Byte) : Keeps t (t.takeChannelQuiesce tag c d) := by
  unfold State.takeChannelQuiesce State.noData
  try dsimp only
  repeat' split
  all_goals simp (maxDischargeDepth := 30)

theorem Keeps.takeWatchSet (t : State) (tag : Word) (f : WatchFields) (d : List Byte) : Keeps t (t.takeWatchSet tag f d) := by
  unfold State.takeWatchSet State.noData
  try dsimp only
  repeat' split
  all_goals simp (maxDischargeDepth := 30)

theorem Keeps.takeWatchStart (t : State) (tag : Word) (d : List Byte) : Keeps t (t.takeWatchStart tag d) := by
  unfold State.takeWatchStart State.noData
  try dsimp only
  repeat' split
  all_goals simp (maxDischargeDepth := 30)

theorem Keeps.takeWatchRead (t : State) (tag : Word) (d : List Byte) : Keeps t (t.takeWatchRead tag d) := by
  unfold State.takeWatchRead State.noData
  try dsimp only
  repeat' split
  all_goals simp (maxDischargeDepth := 30)

theorem Promises.takeQueuePause (h : Promises s t) (tag : Word) (d : List Byte) :
    Promises s (t.takeQueuePause tag d) :=
  h.noData _ _ _ _ ((h.queueFlags true t.queue.halted id).keeps (Keeps.answer (Keeps.refl _) ..))

theorem Promises.takeQueueResume (h : Promises s t) (tag : Word) (d : List Byte) :
    Promises s (t.takeQueueResume tag d) :=
  h.noData _ _ _ _ ((h.queueFlags false false (by simp)).keeps (Keeps.settleBlocks (Keeps.answer (Keeps.refl _) ..)))

/-- The taking of any request keeps the promises. -/
theorem Promises.serve (h : Promises s t) (r : HostRequest) : Promises s (t.serve r) := by
  unfold State.serve
  cases r.body with
  | identify => exact h.keeps (Keeps.takeIdentify ..)
  | statusGet => exact h.keeps (Keeps.takeStatusGet ..)
  | partReset => exact h.takePartReset ..
  | windowSet f => exact h.takeWindowSet ..
  | windowClear e => exact h.takeWindowClear ..
  | windowList => exact h.keeps (Keeps.takeWindowList ..)
  | memoryRead o n => exact h.keeps (Keeps.takeMemoryRead ..)
  | memoryWrite o => exact h.keeps (Keeps.takeMemoryWrite ..)
  | memoryFill o n p => exact h.keeps (Keeps.takeMemoryFill ..)
  | refreshSet p c => exact h.keeps (Keeps.takeRefreshSet ..)
  | channelSet f => exact h.keeps (Keeps.takeChannelSet ..)
  | channelStage f => exact h.keeps (Keeps.takeChannelStage ..)
  | channelQuiesce c => exact h.keeps (Keeps.takeChannelQuiesce ..)
  | lineSet f => exact h.keeps (Keeps.takeLineSet ..)
  | lineEnd n => exact h.keeps (Keeps.takeLineEnd ..)
  | watchSet f => exact h.keeps (Keeps.takeWatchSet ..)
  | watchStart => exact h.keeps (Keeps.takeWatchStart ..)
  | watchStop => exact h.keeps (Keeps.takeWatchStop ..)
  | watchRead => exact h.keeps (Keeps.takeWatchRead ..)
  | queuePause => exact h.takeQueuePause ..
  | queueResume => exact h.takeQueueResume ..
  | queueFlush => exact h.takeQueueFlush ..
  | queueCancel g => exact h.takeQueueCancel ..
  | _ => exact h.admission ..

/-! ## The link interface -/

theorem Promises.takeFramed (h : Promises s t) (f : Framed) : Promises s (t.takeFramed f) := by
  unfold State.takeFramed
  split
  · exact h.keeps ((Keeps.refl t).setSlot _)
  · split
    · exact h.keeps ((Keeps.refl t).refuse ..)
    · exact h.serve _

theorem Promises.drain (h : Promises s t) (l : List Framed) : Promises s (t.drain l) := by
  induction l generalizing t with
  | nil => exact h.setLink _
  | cons f fs ih =>
    unfold State.drain
    split
    · exact ih (h.takeFramed f).takeMessage
    · exact h.setLink _
    · exact h.setLink _

theorem Promises.settleLink (h : Promises s t) : Promises s t.settleLink := by
  unfold State.settleLink
  split
  · exact h
  · exact h.takeMessage.drain _

theorem Promises.settle (h : Promises s t) : Promises s t.settle :=
  (h.keeps (Keeps.settleBlocks (Keeps.refl t))).settleLink

theorem Promises.arrive (h : Promises s t) (f : Framed) : Promises s (t.arrive f) := by
  unfold State.arrive
  split
  · exact h
  · exact h.drain _

/-! ## Events that write what settling leaves alone -/

theorem Promises.memoryTurnEnd (t : State) : Promises t t.memoryTurnEnd := by
  unfold State.memoryTurnEnd
  split
  · exact Promises.refl _
  · rename_i u hu
    dsimp only
    have base : Promises t ((t.setMem (u.serve t.mem).1).setPort { t.port with turn := none }) :=
      ((Promises.refl t).setMem _ (fun h => MemUnit.wf_serve u _ h)).keeps ((Keeps.refl _).setPort _)
    refine base.keeps ?_
    apply Keeps.unitServed
    split
    · exact (Keeps.refl _).portTie
    · exact Keeps.refl _

theorem Promises.queueLinkReset (t : State) : Promises t t.queueLinkReset := by
  unfold State.queueLinkReset
  dsimp only
  have hq : Promises t (t.setQueue Queue.initial) :=
    (Promises.refl t).setQueue _ (fun _ => ⟨Nat.zero_le _, by simp [Queue.initial]⟩)
      (fun _ => ⟨by simp [Queue.initial], by simp [Queue.initial]⟩)
  split
  · exact hq.keeps (Keeps.sresetRelease ((Keeps.refl _).setElement _))
  · exact hq.keeps ((Keeps.refl _).setElement _)

theorem Promises.linkReset (t : State) : Promises t t.linkReset := by
  unfold State.linkReset
  split
  · exact Promises.refl _
  · dsimp only
    have h1 : Promises t (t.setLink t.link.detach) := (Promises.refl t).setLink _
    have h2 := h1.keeps ((Keeps.refl _).setPort (t.setLink t.link.detach).port.dropLink)
    have h3 := h2.setNotices [] (fun _ => by simp [noticesOk])
    have h4 := h3.keeps (Keeps.foldl State.lineLinkReset (fun t a h => h.lineLinkReset a) (List.finRange 8)
      (Keeps.refl _))
    refine (h4.trans (Promises.queueLinkReset _)).keeps ?_
    apply Keeps.settleBlocks
    apply Keeps.watchLinkReset
    apply Keeps.foldl _ (fun t a h => h.quiesceChannel a)
    exact Keeps.refl _

theorem Promises.partResetEnd (t : State) : Promises t t.partResetEnd := by
  unfold State.partResetEnd
  split
  · exact (((Promises.refl t).setLink _).keeps ((Keeps.refl _).setRefresh _)).keeps ((Keeps.refl _).finishWork ..)
  · exact Promises.refl _

theorem Promises.linkConfigured (t : State) : Promises t t.linkConfigured := by
  unfold State.linkConfigured
  repeat' split
  · exact Promises.refl _
  · exact ((Promises.refl t).setLink _).settleLink
  · exact Promises.refl _

theorem Promises.startUpFillDone (t : State) : Promises t t.startUpFillDone := by
  unfold State.startUpFillDone
  split
  · exact Promises.refl _
  · exact ((Promises.refl t).setMem _ (fun _ => rfl)).setLink _

end Sys2Proof.Machine
end

