-- ==== Sys2Proof/Laws/Operations.lean ====
section
/-! SUPPORT. Lemmas that several statements lean on: what a delivery and a posting leave alone, a link-side request that
begins, the checks of a queued request, the overlap test, runs of clocks, changes of the ACTIVE entry, base memory through the settling of the link. -/

namespace Sys2Proof.Machine

/-! ## Deliveries and postings -/

@[simp] theorem State.channel_deliver (s : State) (x : AwaitSource) (m : Fin 4) : (s.deliver x).channel m = s.channel m := by
  unfold State.deliver
  repeat' split
  all_goals rfl

@[simp] theorem State.line_deliver (s : State) (x : AwaitSource) (m : Fin 8) : (s.deliver x).line m = s.line m := by
  unfold State.deliver
  repeat' split
  all_goals rfl

@[simp] theorem State.mem_deliver (s : State) (x : AwaitSource) : (s.deliver x).mem = s.mem := by
  unfold State.deliver
  repeat' split
  all_goals rfl

@[simp] theorem State.watch_deliver (s : State) (x : AwaitSource) : (s.deliver x).watch = s.watch := by
  unfold State.deliver
  repeat' split
  all_goals rfl

@[simp] theorem State.notices_deliver (s : State) (x : AwaitSource) : (s.deliver x).notices = s.notices := by
  unfold State.deliver
  repeat' split
  all_goals rfl

@[simp] theorem State.windows_deliver (s : State) (x : AwaitSource) : (s.deliver x).windows = s.windows := by
  unfold State.deliver
  repeat' split
  all_goals rfl

@[simp] theorem State.bus_deliver (s : State) (x : AwaitSource) : (s.deliver x).bus = s.bus := by
  unfold State.deliver
  repeat' split
  all_goals rfl

@[simp] theorem State.port_deliver (s : State) (x : AwaitSource) : (s.deliver x).port = s.port := by
  unfold State.deliver
  repeat' split
  all_goals rfl

@[simp] theorem State.channel_post (s : State) (x : Source) (b : NoticeBody) (m : Fin 4) :
    (s.post x b).channel m = s.channel m := rfl

@[simp] theorem State.line_post (s : State) (x : Source) (b : NoticeBody) (m : Fin 8) :
    (s.post x b).line m = s.line m := rfl

theorem State.setLine_setLine (s : State) (n : Fin 8) (l l' : Line) :
    (s.setLine n l).setLine n l' = s.setLine n l' := by
  simp [State.setLine, State.setLines]

theorem State.inSlotReset_false (s : State) : s.inSlotReset = false ↔ s.sreset = .released := by
  simp [State.inSlotReset]

theorem State.entryStarted_iff (s : State) :
    s.entryStarted = true ↔ ∃ e, s.engine.element = some e ∧ e.item = .entry := by
  unfold State.entryStarted
  split <;> simp_all

/-! ## Requests -/

/-- A check that answers exactly what is asked answers nothing when nothing is asked. -/
theorem none_of_asks {α β : Type} {o : Option (α × β)} {P : α → β → Prop} (h : ∀ a b, o = some (a, b) ↔ P a b)
    (hn : ∀ a b, ¬ P a b) : o = none := by
  cases o with
  | none => rfl
  | some p => exact absurd ((h p.1 p.2).mp rfl) (hn _ _)

theorem HostRequest.length_small {tag : Word} {b : RequestBody} {d : List Byte} (h : b.size + d.length ≤ 1094) :
    HostRequest.length ⟨tag, b, d⟩ ≤ 1100 := by
  simp [HostRequest.length]; omega

/-- The taking of a queued request is its admission by what it asks for. -/
theorem serve_queued (b : RequestBody) (d : List Byte) (hq : b.queued = true) (s : State) (tag : Word) :
    ∃ o : Option Op, (∀ op, o = some op ↔ b.Asks d op) ∧ s.serve ⟨tag, b, d⟩ = s.admission b.kind tag o := by
  cases b with
  | read c =>
    exact ⟨_, fun op => by rw [onlyWithout_some, admitRead_some]; cases op <;> simp [RequestBody.Asks], rfl⟩
  | write c v =>
    exact ⟨_, fun op => by rw [onlyWithout_some, admitWrite_some]; cases op <;> simp [RequestBody.Asks]; grind, rfl⟩
  | modify c v o =>
    exact ⟨_, fun op => by rw [onlyWithout_some, admitModify_some]; cases op <;> simp [RequestBody.Asks]; grind, rfl⟩
  | transfer f => exact ⟨_, fun op => by rw [admitTransfer_some]; cases op <;> simp [RequestBody.Asks], rfl⟩
  | scan f =>
    exact ⟨_, fun op => by rw [onlyWithout_some, admitScan_some]; cases op <;> simp [RequestBody.Asks], rfl⟩
  | compare f =>
    exact ⟨_, fun op => by rw [onlyWithout_some, admitCompare_some]; cases op <;> simp [RequestBody.Asks], rfl⟩
  | delay f =>
    exact ⟨_, fun op => by rw [onlyWithout_some, admitDelay_some]; cases op <;> simp [RequestBody.Asks]; grind, rfl⟩
  | await f t =>
    exact ⟨_, fun op => by rw [onlyWithout_some, admitAwait_some]; cases op <;> simp [RequestBody.Asks]; grind, rfl⟩
  | slotReset f =>
    exact ⟨_, fun op => by rw [onlyWithout_some, admitSlotReset_some]; cases op <;> simp [RequestBody.Asks]; grind, rfl⟩
  | _ => simp [RequestBody.queued] at hq

theorem rangeOk_true {o l m : Nat} (h1 : 1 ≤ l) (h2 : l ≤ m) (h3 : o + l ≤ 0x100000) : rangeOk o l m = true :=
  decide_eq_true ⟨h1, h2, by simp only [Config.memorySize]; omega, by simp only [Config.memorySize]; omega⟩

theorem rangeOk_false {o l m : Nat} (h : l = 0 ∨ m < l ∨ 0xFFFFF < o ∨ 0xFFFFF < o + l - 1) :
    rangeOk o l m = false := by
  apply decide_eq_false
  simp only [Config.memorySize]
  omega

/-- A link-side request whose taking begins a job. -/
theorem State.Listening.job {s : State} (h : s.Listening) (r : HostRequest) (hl : r.length ≤ 1100) (k : Byte)
    (j : LinkJob) (hs : s.serve r = s.startLinkJob k r.tag j) :
    s.arrive (.request r) = ((s.setSlot (.working .memory k r.tag)).setPort
      (Port.choose { s.port with link := some j })).settleLink := by
  have e : s.takeFramed (.request r) = s.startLinkJob k r.tag j := by
    simp only [State.takeFramed]; rw [if_neg (by simpa [Config.maxMessage] using hl), hs]
  rw [h.arrive _ (by rw [e]; simp [State.startLinkJob, State.setSlot, State.portChoose, h.noneWaiting]), e]
  exact (State.settleLink_takes (s := s.startLinkJob k r.tag j) (h.configured) (h.noneWaiting)).symm

theorem overlapsOther_iff (ws : Vector (Option Window) 16) (n : Fin 16) (w : Window) :
    overlapsOther ws n w = true ↔ ∃ (m : Fin 16) (w' : Window), m ≠ n ∧ ws[m.val] = some w' ∧ w'.space = w.space ∧
      w'.base ≤ w.limit ∧ w.base ≤ w'.limit := by
  simp only [overlapsOther, List.any_eq_true, List.mem_finRange, true_and, Bool.and_eq_true, bne_iff_ne]
  constructor
  · rintro ⟨m, h1, h2⟩
    split at h2
    · rename_i w' hw; simp [Window.overlaps] at h2; exact ⟨m, w', h1, hw, by rw [h2.1.1], h2.2, h2.1.2⟩
    · simp at h2
  · rintro ⟨m, w', h1, hw, h3, h4, h5⟩
    refine ⟨m, h1, ?_⟩
    rw [hw]; simp [Window.overlaps, h3, h4, h5]

theorem MemUnit.serve_old (u : MemUnit) (m : Mem) : (u.serve m).2.1 = m.readUnit u.offset u.width := by
  unfold MemUnit.serve; split <;> rfl

/-! ## Values and clocks -/

theorem Width.trim_lt (w : Width) (v : Word) : (w.trim v).toNat < 256 ^ w.bytes := by
  cases w <;> simp only [Width.trim, Width.mask, Width.bytes, BitVec.toNat_and]
  · exact Nat.lt_of_le_of_lt Nat.and_le_right (by decide)
  · exact Nat.lt_of_le_of_lt Nat.and_le_right (by decide)

theorem Cycle.run_append (xs ys : List Bool) (c c' : Cycle) (h : Cycle.run xs c = .running c') :
    Cycle.run (xs ++ ys) c = Cycle.run ys c' := by
  induction xs generalizing c with
  | nil => simp [Cycle.run] at h; subst h; rfl
  | cons x xs ih =>
    simp only [List.cons_append, Cycle.run] at h ⊢
    split at h <;> simp_all

/-- Before the programmed length a cycle runs on, and records a sample of SWAIT asserted. -/
theorem Cycle.run_early (c : Cycle) (ws : List Bool) (h : c.clock + ws.length < c.programmed) :
    ∃ b, Cycle.run ws c = .running { c with clock := c.clock + ws.length, held := b } ∧
      (c.kind ≠ .refresh → (b = true ↔ c.held = true ∨ true ∈ ws)) ∧ (c.kind = .refresh → b = c.held) := by
  induction ws generalizing c with
  | nil => exact ⟨c.held, rfl, by simp, by simp⟩
  | cons w ws ih =>
    simp only [Cycle.run, Cycle.clockStep]
    simp at h
    rw [if_pos (by omega)]
    obtain ⟨b, h1, h2, h3⟩ := ih { c with
      clock := c.clock + 1
      held := c.held || (w && c.kind != .refresh && decide (c.clock + 1 ≤ c.programmed)) } (by simp; omega)
    refine ⟨b, ?_, ?_, ?_⟩
    · simp only; rw [h1]; simp; omega
    · intro hk; rw [h2 hk]; simp [show c.clock + 1 ≤ c.programmed by omega, hk]; try rw [or_assoc]
      try simp [eq_comm]
    · intro hk; rw [h3 hk]; simp [hk]

/-! ## Changes of the ACTIVE entry -/

/-- Two changes of the ACTIVE entry, the first of which leaves it ACTIVE, are one. -/
theorem State.mapActive_mapActive (s : State) (f g : Entry → Entry) (hf : ∀ e, (f e).state = e.state) :
    (s.mapActive f).mapActive g = s.mapActive fun e => g (f e) := by
  simp only [State.mapActive, Queue.mapActive, State.setQueue, List.map_map]
  congr 3
  funext e
  by_cases h : e.state = .active <;> simp [h, hf]

/-- A mark that is set and acts at once (R57, R58). -/
theorem State.endActive_marked (s : State) :
    (s.mapActive fun e => { e with cancel := true }).endActive .cancelled =
      s.mapActive fun e => { e with cancel := true, state := .cancelled, timer := none } :=
  s.mapActive_mapActive _ _ fun _ => rfl

/-! ## Base memory through the link -/

theorem State.mem_takeMessage (s : State) : s.takeMessage.mem = s.mem := by
  unfold State.takeMessage State.takeQueued State.takeNotice State.noticeSent State.channelNoticeSent
  repeat' split
  all_goals rfl

theorem State.mem_admission (s : State) (k : Byte) (tag : Word) (op : Option Op) : (s.admission k tag op).mem = s.mem := by
  unfold State.admission
  split
  · rfl
  · split
    · rfl
    · split
      · rfl
      · exact (Untouched.refl _).settleBlocks.mem

theorem State.mem_noData (s t : State) (k : Byte) (tag : Word) (d : List Byte) (h : t.mem = s.mem) :
    (s.noData k tag d t).mem = s.mem := by
  unfold State.noData
  split
  · exact h
  · rfl

/-- The taking of a request changes no byte of base memory: its units do. -/
theorem State.mem_serve (s : State) (r : HostRequest) : (s.serve r).mem = s.mem := by
  unfold State.serve
  cases r.body
  case windowSet =>
    refine s.mem_noData _ _ _ _ ?_
    repeat' split
    all_goals rfl
  case windowClear =>
    refine s.mem_noData _ _ _ _ ?_
    repeat' split
    all_goals rfl
  case partReset => exact s.mem_noData _ _ _ _ rfl
  case queuePause => exact s.mem_noData _ _ _ _ rfl
  case queueResume => exact s.mem_noData _ _ _ _ (Untouched.refl _).settleBlocks.mem
  case queueFlush => exact s.mem_noData _ _ _ _ (Untouched.refl _).settleBlocks.mem
  case queueCancel =>
    refine s.mem_noData _ _ _ _ ?_
    split
    · rfl
    · split
      · exact (Untouched.refl _).settleBlocks.mem
      · exact (Keeps.settleBlocks (Keeps.answer (Keeps.cancelActive (Keeps.refl s) _) ..)).mem
      all_goals rfl
  case read | write | modify | transfer | scan | compare | delay | await | slotReset => exact s.mem_admission ..
  all_goals first
    | exact (Keeps.takeIdentify ..).mem
    | exact (Keeps.takeStatusGet ..).mem
    | exact (Keeps.takeWindowList ..).mem
    | exact (Keeps.takeMemoryRead ..).mem
    | exact (Keeps.takeMemoryWrite ..).mem
    | exact (Keeps.takeMemoryFill ..).mem
    | exact (Keeps.takeRefreshSet ..).mem
    | exact (Keeps.takeChannelSet ..).mem
    | exact (Keeps.takeChannelStage ..).mem
    | exact (Keeps.takeChannelQuiesce ..).mem
    | exact (Keeps.takeLineSet ..).mem
    | exact (Keeps.takeLineEnd ..).mem
    | exact (Keeps.takeWatchSet ..).mem
    | exact (Keeps.takeWatchStart ..).mem
    | exact (Keeps.takeWatchStop ..).mem
    | exact (Keeps.takeWatchRead ..).mem

theorem State.mem_takeFramed (s : State) (f : Framed) : (s.takeFramed f).mem = s.mem := by
  unfold State.takeFramed
  repeat' split
  all_goals first | rfl | exact s.mem_serve _

theorem State.mem_drain (l : List Framed) (s : State) : (State.drain l s).mem = s.mem := by
  induction l generalizing s with
  | nil => rfl
  | cons f fs ih =>
    unfold State.drain
    split
    · rw [ih, State.mem_takeMessage, State.mem_takeFramed]
    · rfl
    · rfl

/-- Settling changes no byte of base memory. -/
@[simp] theorem State.mem_settle (s : State) : s.settle.mem = s.mem := by
  have h : s.settleBlocks.mem = s.mem := (Untouched.refl s).settleBlocks.mem
  unfold State.settle State.settleLink
  split
  · exact h
  · rw [State.mem_drain, State.mem_takeMessage, h]

end Sys2Proof.Machine
end

