-- ==== Sys2Proof/Laws/Resets.lean ====
section
/-! SUPPORT. What the parts of a reset that go through the lines and the channels one by one come to: the level rule over
the eight lines, the lines at a link reset, the withdrawal of the grants of the cascade channels. -/

namespace Sys2Proof.Machine

/-! ## Lines one by one -/

theorem State.setLine_self (s : State) (n : Fin 8) : s.setLine n (s.line n) = s := by
  simp [State.setLine, State.line]
  rfl

/-- A line after its level event is taken in IDLE. -/
def Line.taken (l : Line) : Line :=
  match l.action with
  | some _ => { l with state := .pending, edges := min 255 (l.edges + 1) }
  | none => { l with state := (match l.service with | .hold => .inService | .auto => .idle), edges := 0 }

/-- The notice that the level event of a line posts. -/
def Line.noticed (n : Fin 8) (l : Line) : List Notice :=
  match l.action with
  | some _ => []
  | none => [⟨.line n, 1, .line ⟨n, min 255 (l.edges + 1), .none, none, false⟩⟩]

theorem Line.source_noticed {n : Fin 8} {l : Line} {k : Notice} (h : k ∈ l.noticed n) : k.source = .line n := by
  unfold Line.noticed at h
  split at h <;> simp at h
  rw [h]

/-- A line that takes a level event while IDLE. -/
def Line.levelDue (l : Line) (sreset : SReset) : Bool :=
  l.role == .interrupt && l.mode == .level && l.state == .idle && l.level && sreset == .released

/-- A delivery writes the request queue alone. -/
theorem State.deliver_queue (s : State) (src : AwaitSource) : ∃ q, s.deliver src = s.setQueue q := by
  unfold State.deliver
  repeat' split
  all_goals exact ⟨_, rfl⟩

theorem State.deliver_to (s t : State) (src : AwaitSource) (h : ∀ q, s.setQueue q = t.setQueue q) :
    ∃ q, s.deliver src = t.setQueue q := by
  obtain ⟨q, hq⟩ := s.deliver_queue src
  exact ⟨q, hq.trans (h q)⟩

theorem State.lineEvent_idle (s : State) (n : Fin 8) (h : (s.line n).state = .idle)
    (hn : ∀ k ∈ s.notices, k.source ≠ .line n) :
    ∃ q, s.lineEvent n =
      ((s.setLine n (s.line n).taken).setNotices (s.notices ++ (s.line n).noticed n)).setQueue q := by
  have post (b : NoticeBody) : postTo s.notices (.line n) b = s.notices ++ [⟨.line n, 1, b⟩] := by
    unfold postTo
    rw [if_neg (by simpa using hn)]
  simp only [State.lineEvent, h, State.lineToPending, State.line_setLine_same, State.setLine_setLine]
  cases ha : (s.line n).action with
  | some op => exact ⟨s.queue, by simp [Line.taken, Line.noticed, ha, addEdges, saturate, Nat.min_comm]; rfl⟩
  | none =>
    simp only [State.postLine, State.line_setLine_same, State.setLine_setLine]
    refine State.deliver_to _ _ _ fun q => ?_
    simp only [State.post]
    show ((State.setNotices _ (postTo s.notices _ _)).setQueue _) = _
    rw [post]
    simp [Line.taken, Line.noticed, ha, addEdges, saturate, Nat.min_comm] <;> rfl

/-- What the level rule does to one line. -/
theorem State.lineLevelRule_eq (s : State) (n : Fin 8) (hn : ∀ k ∈ s.notices, k.source ≠ .line n) :
    ∃ q, s.lineLevelRule n =
      ((s.setLine n (if (s.line n).levelDue s.sreset then (s.line n).taken else s.line n)).setNotices
        (s.notices ++ if (s.line n).levelDue s.sreset then (s.line n).noticed n else [])).setQueue q := by
  unfold State.lineLevelRule
  by_cases h : (s.line n).levelDue s.sreset = true
  · have h' := h
    simp only [Line.levelDue, Bool.and_eq_true, beq_iff_eq] at h'
    rw [if_pos ⟨h'.1.1.1.1, h'.1.1.1.2, h'.1.1.2, h'.1.2, by simp [State.inSlotReset, h'.2]⟩]
    obtain ⟨q, hq⟩ := s.lineEvent_idle n h'.1.1.2 hn
    exact ⟨q, by rw [hq]; simp [h]⟩
  · rw [if_neg (by
      rintro ⟨a, b, c, d, e⟩
      exact h (by simp [Line.levelDue, a, b, c, d, (State.inSlotReset_false s).mp e]))]
    exact ⟨s.queue, by simp only [h, Bool.false_eq_true, if_false, State.setLine_self, List.append_nil]; rfl⟩

/-- What the level rule makes of the line it is asked for. -/
theorem State.line_lineLevelRule (s : State) (n : Fin 8) :
    (s.lineLevelRule n).line n = if (s.line n).levelDue s.sreset then (s.line n).taken else s.line n := by
  unfold State.lineLevelRule
  by_cases h : (s.line n).levelDue s.sreset = true
  · have h' := h
    simp only [Line.levelDue, Bool.and_eq_true, beq_iff_eq] at h'
    rw [if_pos ⟨h'.1.1.1.1, h'.1.1.1.2, h'.1.1.2, h'.1.2, by simp [State.inSlotReset, h'.2]⟩, if_pos h]
    simp only [State.lineEvent, h'.1.1.2, State.lineToPending, State.line_setLine_same, State.setLine_setLine]
    cases ha : (s.line n).action with
    | some op => simp [State.line_setLine_same, Line.taken, ha, addEdges, saturate, Nat.min_comm]
    | none =>
      simp only [State.postLine, State.line_deliver, State.line_post, State.line_setLine_same, Line.taken, ha] <;> rfl
  · rw [if_neg (by
      rintro ⟨a, b, c, d, e⟩
      exact h (by simp [Line.levelDue, a, b, c, d, (State.inSlotReset_false s).mp e])), if_neg h]

/-- The level rule of line n leaves the other lines and SRESET alone. -/
theorem State.lineLevelRule_other (s : State) (n m : Fin 8) (h : m ≠ n) :
    (s.lineLevelRule n).line m = s.line m ∧ (s.lineLevelRule n).sreset = s.sreset := by
  have post (t : State) (st : ActionStatus) (r : Option RunResult) :
      (t.postLine n st r).line m = t.line m ∧ (t.postLine n st r).sreset = t.sreset := by
    unfold State.postLine
    dsimp only
    obtain ⟨q, hq⟩ := State.deliver_queue (((t.setLine n { t.line n with edges := 0 }).post (.line n)
      (.line ⟨n, (t.line n).edges, st, r, false⟩))) (.line n)
    rw [hq]
    exact ⟨t.line_setLine_other n m _ h, rfl⟩
  have pending (t : State) : (t.lineToPending n).line m = t.line m ∧ (t.lineToPending n).sreset = t.sreset := by
    unfold State.lineToPending
    dsimp only
    split
    · exact ⟨t.line_setLine_other n m _ h, rfl⟩
    · rw [(post _ _ _).1, (post _ _ _).2]; exact ⟨t.line_setLine_other n m _ h, rfl⟩
  unfold State.lineLevelRule State.lineEvent
  dsimp only
  repeat' split
  all_goals first
    | exact ⟨rfl, rfl⟩
    | exact ⟨s.line_setLine_other n m _ h, rfl⟩
    | (rw [(pending _).1, (pending _).2]; exact ⟨s.line_setLine_other n m _ h, rfl⟩)

theorem State.linesLevelRule_steps (s : State) :
    s.linesLevelRule = ((((((((s.lineLevelRule 0).lineLevelRule 1).lineLevelRule 2).lineLevelRule 3).lineLevelRule
      4).lineLevelRule 5).lineLevelRule 6).lineLevelRule 7) := by
  have h : List.finRange 8 = [0, 1, 2, 3, 4, 5, 6, 7] := by decide
  simp only [State.linesLevelRule, h, List.foldl_cons, List.foldl_nil]

/-- The level rule over all lines makes of each what its own rule makes of it. -/
theorem State.line_linesLevelRule (s : State) (n : Fin 8) : s.linesLevelRule.line n = (s.lineLevelRule n).line n := by
  suffices H : ∀ (l : List (Fin 8)) (t : State), l.Nodup → (l.foldl State.lineLevelRule t).line n =
      if n ∈ l then (t.lineLevelRule n).line n else t.line n by
    rw [State.linesLevelRule, H _ s (List.nodup_finRange 8), if_pos (List.mem_finRange n)]
  intro l
  induction l with
  | nil => intro t _; rfl
  | cons a l ih =>
    intro t hd
    have hd' := List.nodup_cons.mp hd
    rw [List.foldl_cons, ih _ hd'.2]
    by_cases hn : n = a
    · subst hn; rw [if_neg hd'.1, if_pos (by simp)]
    · obtain ⟨h1, h2⟩ := t.lineLevelRule_other a n hn
      by_cases hm : n ∈ l
      · rw [if_pos hm, if_pos (by simp [hm]), State.line_lineLevelRule, State.line_lineLevelRule, h1, h2]
      · rw [if_neg hm, if_neg (by simp [hn, hm]), h1]

/-- The same change made to the lines of a list one by one: `g` is the line after, `h` what it posts. -/
theorem State.foldl_lines (f : State → Fin 8 → State) (g : SReset → Line → Line)
    (h : SReset → Fin 8 → Line → List Notice) (hs : ∀ sr n l, ∀ k ∈ h sr n l, k.source = .line n)
    (hf : ∀ s n, (∀ k ∈ s.notices, k.source ≠ .line n) → ∃ q, f s n =
      ((s.setLine n (g s.sreset (s.line n))).setNotices (s.notices ++ h s.sreset n (s.line n))).setQueue q) :
    ∀ (l : List (Fin 8)) (s : State), l.Nodup → (∀ n ∈ l, ∀ k ∈ s.notices, k.source ≠ .line n) →
      ∃ q, l.foldl f s =
        ((s.setLines (Vector.ofFn fun n => if n ∈ l then g s.sreset (s.line n) else s.line n)).setNotices
          (s.notices ++ l.flatMap fun n => h s.sreset n (s.line n))).setQueue q := by
  intro l
  induction l with
  | nil =>
    intro s _ _
    refine ⟨s.queue, ?_⟩
    have : (Vector.ofFn fun n : Fin 8 => s.line n) = s.lines := by
      ext i hi; simp [State.line]
    simp [this]
    rfl
  | cons n l ih =>
    intro s hd hn
    obtain ⟨q, hq⟩ := hf s n (hn n (by simp))
    have hd' := List.nodup_cons.mp hd
    have other (m : Fin 8) (hm : m ∈ l) : (f s n).line m = s.line m := by
      rw [hq]; exact s.line_setLine_other n m _ (fun e => hd'.1 (e ▸ hm))
    obtain ⟨q', hq'⟩ := ih (f s n) hd'.2 (by
      intro m hm k hk
      rw [hq] at hk
      simp only [State.notices_setQueue, State.notices_setNotices, List.mem_append] at hk
      rcases hk with hk | hk
      · exact hn m (by simp [hm]) k hk
      · rw [hs _ _ _ k hk]; intro e; injection e with e; exact hd'.1 (e ▸ hm))
    refine ⟨q', ?_⟩
    rw [List.foldl_cons, hq']
    have hsr : (f s n).sreset = s.sreset := by rw [hq]; rfl
    have hno : (f s n).notices = s.notices ++ h s.sreset n (s.line n) := by rw [hq]; rfl
    have hfl : (l.flatMap fun m => h s.sreset m ((f s n).line m)) = l.flatMap fun m => h s.sreset m (s.line m) := by
      simp only [List.flatMap_def]
      congr 1
      exact List.map_congr_left fun m hm => by rw [other m hm]
    have hli : (Vector.ofFn fun m => if m ∈ l then g s.sreset ((f s n).line m) else (f s n).line m) =
        Vector.ofFn fun m => if m ∈ n :: l then g s.sreset (s.line m) else s.line m := by
      congr 1
      funext m
      by_cases hm : m ∈ l
      · simp [hm, other m hm]
      · by_cases e : m = n
        · subst e
          rw [if_neg hm, if_pos (by simp), hq]
          exact s.line_setLine_same m _
        · rw [if_neg hm, if_neg (by simp [e, hm]), hq]
          exact s.line_setLine_other n m _ e
    rw [hsr, hno, hfl, hli]
    simp only [List.flatMap_cons, List.append_assoc]
    rw [hq]
    rfl

theorem State.line_setLines_ofFn (s : State) (f : Fin 8 → Line) (n : Fin 8) :
    (s.setLines (Vector.ofFn f)).line n = f n := by
  simp [State.line]

/-- The level rule over all lines: each line that is due takes its event, and the notices come in the lines' order. -/
theorem State.linesLevelRule_eq (s : State) (hn : ∀ n k, k ∈ s.notices → k.source ≠ .line n) :
    ∃ q, s.linesLevelRule =
      ((s.setLines (Vector.ofFn fun n => if (s.line n).levelDue s.sreset then (s.line n).taken else s.line n)).setNotices
        (s.notices ++ (List.finRange 8).flatMap fun n =>
          if (s.line n).levelDue s.sreset then (s.line n).noticed n else [])).setQueue q := by
  obtain ⟨q, hq⟩ := State.foldl_lines State.lineLevelRule (fun sr l => if l.levelDue sr then l.taken else l)
    (fun sr n l => if l.levelDue sr then l.noticed n else [])
    (by intro sr n l k hk; split at hk; exact Line.source_noticed hk; simp at hk)
    (fun s n h => s.lineLevelRule_eq n h) (List.finRange 8) s (List.nodup_finRange 8) (fun n _ k hk => hn n k hk)
  exact ⟨q, by rw [State.linesLevelRule, hq]; simp⟩

/-- A line released by a link reset, before the level rule. -/
def Line.released (l : Line) : Line :=
  match l.state with
  | .inService | .faulted => { l with state := .idle, again := false }
  | .disabled | .idle | .pending | .acting => l

/-- The level rule acts on a line as a link reset releases it. -/
def Line.releasedDue (l : Line) (sreset : SReset) : Bool :=
  (l.state == .inService || l.state == .faulted) && l.released.levelDue sreset

theorem State.lineLinkReset_eq (s : State) (n : Fin 8) (hn : ∀ k ∈ s.notices, k.source ≠ .line n) :
    ∃ q, s.lineLinkReset n =
      ((s.setLine n (if (s.line n).releasedDue s.sreset then (s.line n).released.taken
        else (s.line n).released)).setNotices
        (s.notices ++ if (s.line n).releasedDue s.sreset then (s.line n).released.noticed n else [])).setQueue q := by
  obtain ⟨q, hq⟩ := (s.setLine n { s.line n with state := .idle, again := false }).lineLevelRule_eq n hn
  unfold State.lineLinkReset
  cases hst : (s.line n).state <;>
    simp only [Line.releasedDue, Line.released, hst] <;> simp only [State.line_setLine_same] at hq
  case inService | faulted =>
    refine ⟨q, ?_⟩
    rw [hq]
    simp only [State.setLine_setLine]
    simp
    rfl
  all_goals exact ⟨s.queue, by simp [State.setLine_self]; rfl⟩

/-- The lines at a link reset, one after another. -/
theorem State.linesLinkReset_eq (s : State) (hn : ∀ n k, k ∈ s.notices → k.source ≠ .line n) :
    ∃ q, (List.finRange 8).foldl State.lineLinkReset s =
      ((s.setLines (Vector.ofFn fun n => if (s.line n).releasedDue s.sreset then (s.line n).released.taken
        else (s.line n).released)).setNotices
        (s.notices ++ (List.finRange 8).flatMap fun n =>
          if (s.line n).releasedDue s.sreset then (s.line n).released.noticed n else [])).setQueue q := by
  obtain ⟨q, hq⟩ := State.foldl_lines State.lineLinkReset
    (fun sr l => if l.releasedDue sr then l.released.taken else l.released)
    (fun sr n l => if l.releasedDue sr then l.released.noticed n else [])
    (by intro sr n l k hk; split at hk; exact Line.source_noticed hk; simp at hk)
    (fun s n h => s.lineLinkReset_eq n h) (List.finRange 8) s (List.nodup_finRange 8) (fun n _ k hk => hn n k hk)
  exact ⟨q, by rw [hq]; simp⟩

/-! ## Channels one by one -/

/-- The grant of channel n is withdrawn (R30), the channel's own record apart. -/
def State.grantGone (s : State) (n : Fin 4) : State :=
  match s.bus.master with
  | some m => if m.strobe then s.setArbiter (.handback n) else s.dropMaster.setArbiter .idle
  | none => s.setArbiter .idle

theorem State.withdrawGrant_eq (s : State) (n : Fin 4) :
    s.withdrawGrant n = (s.grantGone n).setChannel n { s.channel n with tenureTimer := none } := by
  rcases hm : s.bus.master with _ | m
  · simp [State.withdrawGrant, State.grantGone, State.setChannel, hm]
    rfl
  · by_cases hs : m.strobe = true <;> simp [State.withdrawGrant, State.grantGone, State.setChannel, hm, hs] <;> rfl

theorem State.channel_grantGone (s : State) (n m : Fin 4) : (s.grantGone n).channel m = s.channel m := by
  unfold State.grantGone
  repeat' split
  all_goals rfl

/-- What changing the channels of a list one by one, with the grants of those in MASTER withdrawn, comes to: `g` is the
record after. -/
structure ChannelsReached (g : Channel → Channel) (l : List (Fin 4)) (s t : State) : Prop where
  rest : t = (((s.setChannels (Vector.ofFn fun n => if n ∈ l then g (s.channel n) else s.channel n)).setBus
    t.bus).setPort t.port).setArbiter t.arbiter
  bus : t.bus.cycle = s.bus.cycle ∧ t.bus.group = s.bus.group ∧ t.bus.record = s.bus.record
  port : t.port = { s.port with bus := t.port.bus, turn := t.port.turn }
  noTenure : (∀ n ∈ l, (s.channel n).state ≠ .master) → t.arbiter = s.arbiter
  tenure : (∃ n ∈ l, (s.channel n).state = .master) → ∃ n ∈ l, (s.channel n).state = .master ∧
    t.arbiter = (match s.bus.master with | some m => if m.strobe then .handback n else .idle | none => .idle)
  cycleOver : ∀ m, s.bus.master = some m → m.strobe = false → (∃ n ∈ l, (s.channel n).state = .master) →
    t.bus.master = none ∧ t.port.bus = s.dropMaster.port.bus ∧ t.port.turn = s.dropMaster.port.turn
  cycleGoesOn : (∀ m, s.bus.master = some m → m.strobe = true) ∨ (∀ n ∈ l, (s.channel n).state ≠ .master) →
    t.bus.master = s.bus.master ∧ t.port.bus = s.port.bus ∧ t.port.turn = s.port.turn

theorem State.foldl_channels (P : State → Prop) (f : State → Fin 4 → State) (g : Channel → Channel)
    (hP : ∀ s n, P s → P (f s n))
    (hf : ∀ s n, P s → f s n = State.setChannel (if (s.channel n).state = .master then s.grantGone n else s) n
      (g (s.channel n))) :
    ∀ (l : List (Fin 4)) (s : State), P s → l.Nodup → ChannelsReached g l s (l.foldl f s) := by
  intro l
  induction l with
  | nil =>
    intro s _ _
    have : (Vector.ofFn fun n : Fin 4 => s.channel n) = s.channels := by
      ext i hi; simp [State.channel]
    exact ⟨by simp [this]; rfl, ⟨rfl, rfl, rfl⟩, rfl, fun _ => rfl, by simp, by simp, fun _ => ⟨rfl, rfl, rfl⟩⟩
  | cons n l ih =>
    intro s hs hd
    have hd' := List.nodup_cons.mp hd
    have h := ih (f s n) (hP s n hs) hd'.2
    have e := hf s n hs
    have other (m : Fin 4) (hm : m ≠ n) : (f s n).channel m = s.channel m := by
      rw [e, State.channel_setChannel_other _ _ _ _ hm]
      split
      · exact s.channel_grantGone n m
      · rfl
    have mem (m : Fin 4) (hm : m ∈ l) : (f s n).channel m = s.channel m := other m fun c => hd'.1 (c ▸ hm)
    have self : (f s n).channel n = g (s.channel n) := by rw [e, State.channel_setChannel_same]
    have chans : (Vector.ofFn fun m => if m ∈ l then g ((f s n).channel m) else (f s n).channel m) =
        Vector.ofFn fun m => if m ∈ n :: l then g (s.channel m) else s.channel m := by
      congr 1
      funext m
      by_cases hm : m = n
      · subst hm; rw [if_neg hd'.1, if_pos (by simp), self]
      · simp only [other m hm, List.mem_cons, hm, false_or]
    have shape : ∃ c b p a, f s n = ((((s.setChannels c).setBus b).setPort p).setArbiter a) := by
      rw [e]
      split
      · unfold State.grantGone
        split
        · split
          · exact ⟨s.channels.set n.val (g (s.channel n)), s.bus, s.port, .handback n, rfl⟩
          · exact ⟨s.channels.set n.val (g (s.channel n)), s.dropMaster.bus, s.dropMaster.port, .idle, rfl⟩
        · exact ⟨s.channels.set n.val (g (s.channel n)), s.bus, s.port, .idle, rfl⟩
      · exact ⟨s.channels.set n.val (g (s.channel n)), s.bus, s.port, s.arbiter, rfl⟩
    rw [List.foldl_cons]
    refine ⟨?_, ?_, ?_, ?_, ?_, ?_, ?_⟩
    · rw [← chans]
      refine h.rest.trans ?_
      obtain ⟨c, b, p, a, k⟩ := shape
      rw [k]
      rfl
    · obtain ⟨h1, h2, h3⟩ := h.bus
      rw [h1, h2, h3, e]
      split
      · unfold State.grantGone
        repeat' split
        all_goals exact ⟨rfl, rfl, rfl⟩
      · exact ⟨rfl, rfl, rfl⟩
    · rw [h.port, e]
      split
      · unfold State.grantGone
        repeat' split
        all_goals rfl
      · rfl
    · intro k
      rw [h.noTenure (fun m hm => by rw [mem m hm]; exact k m (by simp [hm])), e, if_neg (k n (by simp))]
      rfl
    · intro hx
      by_cases hl : ∃ m ∈ l, (s.channel m).state = .master
      · obtain ⟨m, hm, km⟩ := hl
        obtain ⟨m', hm', km', ha⟩ := h.tenure ⟨m, hm, by rw [mem m hm]; exact km⟩
        refine ⟨m', by simp [hm'], by rw [← mem m' hm']; exact km', ha.trans ?_⟩
        have bus (x : State) (y : Channel) : (x.setChannel n y).bus = x.bus := rfl
        rw [e, bus]
        by_cases kn : (s.channel n).state = .master
        · rw [if_pos kn]
          cases hc : s.bus.master with
          | none => simp [State.grantGone, hc]
          | some c =>
            cases hs' : c.strobe
            · simp only [State.grantGone, hc, hs', Bool.false_eq_true, if_false]
              rfl
            · simp [State.grantGone, hc, hs']
        · rw [if_neg kn]
      · have kl : ∀ m ∈ l, (s.channel m).state ≠ .master := fun m hm km => hl ⟨m, hm, km⟩
        have kn : (s.channel n).state = .master := by
          obtain ⟨m, hm, km⟩ := hx
          rcases List.mem_cons.mp hm with c | c
          · exact c ▸ km
          · exact absurd km (kl m c)
        refine ⟨n, by simp, kn, ?_⟩
        rw [h.noTenure (fun m hm => by rw [mem m hm]; exact kl m hm), e, if_pos kn]
        unfold State.grantGone
        split
        · split <;> rfl
        · rfl
    · intro m hm hs' hx
      by_cases kn : (s.channel n).state = .master
      · have e' : f s n = (s.dropMaster.setArbiter .idle).setChannel n (g (s.channel n)) := by
          rw [e, if_pos kn]; simp [State.grantGone, hm, hs']
        have none' : (f s n).bus.master = none := by rw [e']; rfl
        obtain ⟨a, b, c⟩ := h.cycleGoesOn (.inl (by simp [none']))
        rw [a, b, c, none', e']
        exact ⟨rfl, rfl, rfl⟩
      · rw [if_neg kn] at e
        obtain ⟨m', a, b⟩ := hx
        have hm' : m' ∈ l := by
          rcases List.mem_cons.mp a with c | c
          · exact absurd (c ▸ b) kn
          · exact c
        have := h.cycleOver m (by rw [e]; exact hm) hs' ⟨m', hm', by rw [mem m' hm']; exact b⟩
        rw [e] at this ⊢
        exact this
    · intro k
      have id' : (f s n).bus.master = s.bus.master ∧ (f s n).port.bus = s.port.bus ∧ (f s n).port.turn = s.port.turn := by
        have bus (x : State) (y : Channel) : (x.setChannel n y).bus = x.bus := rfl
        rw [e, bus]
        by_cases kn : (s.channel n).state = .master
        · rw [if_pos kn]
          rcases k with k | k
          · unfold State.grantGone
            split
            · rename_i m hm; rw [if_pos (k m hm)]; exact ⟨rfl, rfl, rfl⟩
            · exact ⟨rfl, rfl, rfl⟩
          · exact absurd kn (k n (by simp))
        · rw [if_neg kn]; exact ⟨rfl, rfl, rfl⟩
      have := h.cycleGoesOn (by
        rcases k with k | k
        · exact .inl (by rw [id'.1]; exact k)
        · exact .inr fun m hm => by rw [mem m hm]; exact k m (by simp [hm]))
      exact ⟨this.1.trans id'.1, this.2.1.trans id'.2.1, this.2.2.trans id'.2.2⟩

theorem ChannelsReached.grants {g : Channel → Channel} {s t : State} (h : ChannelsReached g (List.finRange 4) s t) :
    GrantsWithdrawn s t where
  bus := h.bus
  noTenure k := h.noTenure fun n _ => k n
  tenure k := by
    obtain ⟨n, k⟩ := k
    obtain ⟨m, _, a, b⟩ := h.tenure ⟨n, List.mem_finRange n, k⟩
    exact ⟨m, a, b⟩
  cycleOver m a b c := h.cycleOver m a b (by obtain ⟨n, c⟩ := c; exact ⟨n, List.mem_finRange n, c⟩)
  cycleGoesOn k := h.cycleGoesOn (k.imp id fun k n _ => k n)

theorem ChannelsReached.channel {g : Channel → Channel} {s t : State} (h : ChannelsReached g (List.finRange 4) s t)
    (n : Fin 4) : t.channel n = g (s.channel n) := by
  rw [h.rest]
  simp [State.channel]

/-- A channel after a quiesce that is answered by no reply (R138). -/
def Channel.stopTaken (c : Channel) : Channel :=
  match c.state with
  | .moving => { c with quiescing := true }
  | .master => { c.cleared with state := .heldOff, tenureTimer := none }
  | .off | .idle | .ready | .waiting | .heldOff | .faulted => { c.cleared with state := c.quiesced }

theorem State.quiesceChannel_eq (s : State) (n : Fin 4) (h : ∀ k t, s.link.slot ≠ .working (.quiesce n) k t) :
    s.quiesceChannel n = State.setChannel (if (s.channel n).state = .master then s.grantGone n else s) n
      (s.channel n).stopTaken := by
  have fin (x : State) (hx : x.link = s.link) (b : ReplyBody) : x.finishWork (.quiesce n) b = x := by
    unfold State.finishWork
    rw [hx]
    split
    · rename_i w k t hw
      rw [if_neg (by intro c; subst c; exact h k t hw)]
    · rfl
  have gone : (s.grantGone n).link = s.link := by
    unfold State.grantGone
    repeat' split
    all_goals rfl
  unfold State.quiesceChannel
  cases hc : (s.channel n).state <;> simp only [Channel.stopTaken, hc, reduceCtorEq, if_false, if_true]
  case master =>
    rw [State.withdrawGrant_eq, State.channelStop]
    simp only [State.channel_setChannel_same, State.setChannel_setChannel, Channel.quiesced, hc]
    rw [fin _ (by simp [gone])]
    simp [Channel.cleared]
  all_goals
    rw [State.channelStop, fin _ (by simp)]

/-- A channel as SRESET is asserted (R139). -/
def Channel.sresetTaken (c : Channel) : Channel :=
  match c.state with
  | .moving => { c with stopped := true }
  | .waiting | .heldOff => { c with state := .idle }
  | .master => { c with state := .idle, tenureTimer := none }
  | .off | .idle | .ready | .faulted => c

theorem State.channelSresetAssert_eq (s : State) (n : Fin 4) :
    s.channelSresetAssert n = State.setChannel (if (s.channel n).state = .master then s.grantGone n else s) n
      (s.channel n).sresetTaken := by
  have same : s.setChannel n (s.channel n) = s := by simp [State.setChannel, State.channel]; rfl
  unfold State.channelSresetAssert
  cases hc : (s.channel n).state <;> simp only [Channel.sresetTaken, hc, reduceCtorEq, if_false, if_true]
  case master =>
    rw [State.withdrawGrant_eq]
    simp [State.channel_setChannel_same, State.setChannel_setChannel]
  all_goals first | rfl | exact same.symm

/-! ## The watch unit and the queue -/

theorem State.discardPass_eq (s : State) :
    s.discardPass = (s.setWatch (s.watch.passDiscarded s.watchReadRunning)).setPort
      { s.port with watch := if s.watch.read = none ∨ s.watchReadRunning = true then s.port.watch else none } := by
  unfold State.discardPass State.abandonRead
  cases hr : s.watch.read with
  | none => cases hc : s.watchReadRunning <;> simp [Watch.passDiscarded, hr] <;> rfl
  | some r => cases hc : s.watchReadRunning <;> simp [Watch.passDiscarded, hr] <;> rfl

/-- Withdrawing grants leaves a watch read running or waiting as it was. -/
theorem GrantsWithdrawn.running {s t : State} (h : GrantsWithdrawn s t) :
    t.watchReadRunning = s.watchReadRunning := by
  unfold State.watchReadRunning
  rw [h.bus.2.1]
  congr 1
  by_cases k : (∀ m, s.bus.master = some m → m.strobe = true) ∨ (∀ n, (s.channel n).state ≠ .master)
  · rw [(h.cycleGoesOn k).2.2]
  · simp only [not_or, Classical.not_forall] at k
    obtain ⟨⟨m, hm, hs⟩, n, hn⟩ := k
    rw [(h.cycleOver m hm (by simpa using hs) ⟨n, by simpa using hn⟩).2.2]
    have e : s.dropMaster.port.turn = s.port.turn.map fun u : MemUnit =>
        if u.requester = .masterStore ∨ u.requester = .masterRead then { u with requester := .orphan } else u := rfl
    rw [e]
    cases s.port.turn with
    | none => rfl
    | some u =>
      simp only [Option.map_some]
      split
      · rename_i q; rcases q with q | q <;> simp [q]
      · rfl

theorem Line.releasedDue_eq (l : Line) {sreset : SReset} (h : sreset ≠ .slotReset) :
    l.releasedDue sreset = l.resetEvent sreset := by
  rcases l with ⟨role, mode, _, _, state, _, _, level, _, _, _⟩
  cases sreset <;> cases state <;> cases role <;> cases mode <;> cases level <;> first | rfl | exact absurd rfl h

theorem Line.released_levelDue (l : Line) : l.released.levelDue .released = l.resetEvent .slotReset := by
  rcases l with ⟨role, mode, _, _, state, _, _, level, _, _, _⟩
  cases state <;> cases role <;> cases mode <;> cases level <;> rfl

theorem State.deliver_none (s : State) (src : AwaitSource) (h : s.queue.active = none) : s.deliver src = s := by
  unfold State.deliver
  rw [h]

theorem State.queue_postLine (s : State) (n : Fin 8) (st : ActionStatus) (r : Option RunResult)
    (h : s.queue.active = none) : (s.postLine n st r).queue = s.queue := by
  have := State.deliver_none
    ((s.setLine n { s.line n with edges := 0 }).post (.line n) (.line ⟨n, (s.line n).edges, st, r, false⟩)) (.line n) h
  unfold State.postLine
  dsimp only
  rw [this]
  rfl

theorem State.queue_lineToPending (s : State) (n : Fin 8) (h : s.queue.active = none) :
    (s.lineToPending n).queue = s.queue := by
  simp only [State.lineToPending]
  split
  · rfl
  · exact State.queue_postLine _ n _ _ h

/-- With no ACTIVE entry the level rule leaves the request queue alone. -/
theorem State.queue_lineLevelRule (s : State) (n : Fin 8) (h : s.queue.active = none) :
    (s.lineLevelRule n).queue = s.queue := by
  simp only [State.lineLevelRule, State.lineEvent]
  repeat' split
  all_goals first | rfl | exact State.queue_lineToPending _ n h

theorem State.queue_linesLevelRule (s : State) (h : s.queue.active = none) : s.linesLevelRule.queue = s.queue := by
  unfold State.linesLevelRule
  suffices H : ∀ (l : List (Fin 8)) (t : State), t.queue = s.queue → (l.foldl State.lineLevelRule t).queue = s.queue from
    H _ _ rfl
  intro l
  induction l with
  | nil => exact fun _ h => h
  | cons n l ih => exact fun t ht => ih _ ((t.queue_lineLevelRule n (by rw [ht]; exact h)).trans ht)

/-- The state of the queue, the engine, SRESET, the lines and the notices of `s` replaced. -/
def State.withReset (s : State) (ls : Vector Line 8) (ns : List Notice) (el : Option Element) (r : SReset) : State :=
  ((((s.setLines ls).setNotices ns).setQueue Queue.initial).setElement el).setSreset r

/-- What a link reset makes of the queue, the engine, SRESET, the lines and their notices (R68, R118, R119). -/
theorem State.linesAtLinkReset (s : State) (hs : s.notices = []) :
    ((List.finRange 8).foldl State.lineLinkReset s).queueLinkReset =
      s.withReset
        (Vector.ofFn fun n => if (s.line n).resetEvent s.sreset then (s.line n).released.taken else (s.line n).released)
        ((List.finRange 8).flatMap fun n =>
          if (s.line n).resetEvent s.sreset then (s.line n).released.noticed n else [])
        (s.engine.element.map fun e => if e.item = .entry then { e with item := .orphan } else e)
        (match s.sreset with | .slotReset => .released | .released => .released | .powerOn => .powerOn) := by
  obtain ⟨q, hq⟩ := s.linesLinkReset_eq (by simp [hs])
  by_cases h : s.sreset = .slotReset
  · have no : ∀ l : Line, l.releasedDue s.sreset = false := by
      intro l; simp [Line.releasedDue, Line.levelDue, h]
    have nil : ((List.finRange 8).flatMap fun _ : Fin 8 => ([] : List Notice)) = [] := by simp
    simp only [no, hs, List.nil_append, Bool.false_eq_true, if_false, nil] at hq
    have hu : ((List.finRange 8).foldl State.lineLinkReset s).queueLinkReset =
        (s.withReset (Vector.ofFn fun n => (s.line n).released) []
          (s.engine.element.map fun e => if e.item = .entry then { e with item := .orphan } else e)
          .released).linesLevelRule := by
      rw [hq]
      unfold State.queueLinkReset State.sresetRelease
      rw [if_pos (by simp [h])]
      rfl
    rw [hu]
    generalize (s.engine.element.map fun e => if e.item = .entry then { e with item := .orphan } else e) = el
    have hl : ∀ n, (s.withReset (Vector.ofFn fun n => (s.line n).released) [] el .released).line n =
        (s.line n).released := by
      intro n
      simp [State.line, State.withReset, State.setElement]
    have hr : ∀ ls ns, ((s.withReset (Vector.ofFn fun n => (s.line n).released) [] el .released).setLines ls).setNotices
        ns = s.withReset ls ns el .released := fun _ _ => rfl
    have hz : ∀ ls ns, (s.withReset ls ns el .released).setQueue Queue.initial = s.withReset ls ns el .released :=
      fun _ _ => rfl
    have h1 : (s.withReset (Vector.ofFn fun n => (s.line n).released) [] el .released).sreset = .released := rfl
    have h2 : (s.withReset (Vector.ofFn fun n => (s.line n).released) [] el .released).notices = [] := rfl
    have h3 : (s.withReset (Vector.ofFn fun n => (s.line n).released) [] el .released).queue = Queue.initial := rfl
    generalize s.withReset (Vector.ofFn fun n => (s.line n).released) [] el .released = u at *
    obtain ⟨q', hq'⟩ := u.linesLevelRule_eq (by simp [h2])
    have hk := u.queue_linesLevelRule (by rw [h3]; rfl)
    rw [hq', State.queue_setQueue, h3] at hk
    rw [hq', hk]
    simp only [hl, h1, h2, hr, hz, List.nil_append, Line.released_levelDue, h]
  · have due := fun l : Line => l.releasedDue_eq h
    simp only [due, hs, List.nil_append] at hq
    rw [hq]
    unfold State.queueLinkReset
    rw [if_neg (by simpa using h)]
    have hsr : (match s.sreset with | .slotReset => .released | .released => .released | .powerOn => .powerOn) =
        s.sreset := by
      cases hr : s.sreset
      · rfl
      · rfl
      · exact absurd hr h
    rw [hsr]
    rfl

end Sys2Proof.Machine
end

