-- ==== Sys2Proof/Tests/Slice0.lean ====
section
/-! SUPPORT. Tests of one step each on small states, an ill-formed term for each check of WellFormed, and for each
statement that has hypotheses a state and operands that meet them, clause by clause (`test_witness_<statement>`). -/

namespace Sys2Proof.Tests

open Sys2Proof.Machine

/-! ## States -/

/-- The next state of one command. -/
def after (c : Instr) (s : State) : State :=
  match exec c s with
  | .next t => t
  | .fault _ => s
  | .refused _ => s

/-- Configured by the host, the fill done, SRESET released, nothing in hand. -/
def up : State := { State.reset with link := ⟨.configured, true, .empty, .free, [], false⟩, sreset := .released }

def held : State := up.setSlot (.ready ⟨0x81, .ok, 1, .identify⟩)

def enabled : ChannelConfig := ⟨true, .cardToMemory, .one, .single, .once, 0, 16, 0⟩

def cascade : ChannelConfig := { enabled with mode := .cascade, tenureLimit := 5 }

def withChannel (cfg : ChannelConfig) (st : ChannelState) (block staged : Option Block) (sreq : Bool) : State :=
  up.setChannel 1 { Channel.initial sreq with config := cfg, state := st, current := block, staged := staged }

def block (done count : Nat) : Block := ⟨0x100 + done, count, .inc, done, 0x100⟩

/-- Channel 1 in MASTER, its tenure granted. -/
def tenure (m : Option MasterCycle) : State :=
  (((withChannel cascade .master none none true).setArbiter (.granted (.channel 1))).setMaster m).setChannel 1
    { Channel.initial true with config := cascade, state := .master, tenureTimer := some 5 }

def withLine (role : LineRole) (mode : LineMode) (service : Service) (action : Option Op) (st : LineState)
    (level : Bool) : State :=
  up.setLine 2 { Line.initial level with role := role, mode := mode, service := service, action := action, state := st }

def port : CardSide := ⟨.io, 0x300, .two⟩

def readPort : Op := .read port

def entry (tag : Word) (op : Op) (st : EntryState) (timer : Option Nat) : Entry :=
  ⟨tag, op, st, false, op.start, Gathered.empty, none, timer⟩

def withEntries (l : List Entry) : State := up.setQueue ⟨l, false, false⟩

def wide : Attrs := ⟨.card, .wide, 1, 16, false⟩

def element (after : AfterPart) (stage : Stage) : Element :=
  ⟨.entry, .queue 5, .io, 0x300, .two, wide, .read, after, stage, 0⟩

/-- The engine's locked group on the bus for the ACTIVE entry 5. -/
def reading (after : AfterPart) : State :=
  let e := element after .card
  ((((withEntries [entry 5 readPort .active none]).setEngine ⟨.entry, some e⟩).setArbiter
    (.granted .engine)).setGroup (some e.group)).setCycle (some e.group.cycle)

def watchRead (discard : Bool) : WatchRead := ⟨3, .io, 0x300, .two, wide, discard⟩

def watchEntry : WatchEntry := ⟨.io, 0x300, .two, 0xFFFF, true⟩

def scanning (r : Option WatchRead) : Watch :=
  { Watch.initial with slots := Watch.initial.slots.set 3 (some watchEntry), state := .scanning, next := 3, read := r }

/-- The watch unit's locked group on the bus. -/
def watching (r : WatchRead) : State :=
  (((up.setWatch (scanning (some r))).setArbiter (.granted .watch)).setGroup (some r.group)).setCycle
    (some r.group.cycle)

def turn (r : Requester) (w : Width) (op : UnitOp) : State :=
  up.setPort { Port.initial with turn := some ⟨r, 0x10, w, op⟩ }

def window (n : Byte) (base limit : BitVec 24) : WindowFields := ⟨n, 0, base, limit, 1, 1, 0, 16, 0⟩

theorem test_up_listens : up.Listening := ⟨rfl, rfl, rfl⟩

/-! ## WellFormed: each check refuses something -/

theorem test_wf_accepts : Instr.wf (.memoryWrite 1 0 (List.replicate 1091 0)) = true := by decide +kernel

theorem test_wf_refuses_a_request_over_1100_bytes :
    Instr.wf (.memoryWrite 1 0 (List.replicate 1092 0)) = false := by decide +kernel

theorem test_wf_refuses_a_listed_action_spelled_unlisted :
    Instr.wf (.lineSet 1 ⟨0, 1, 0, 0, .unlisted 0x50⟩ []) = false ∧
    Instr.wf (.lineSet 1 ⟨0, 1, 0, 0, .unlisted 0x00⟩ []) = false := by decide

theorem test_wf_refuses_an_address_outside_io_space :
    Instr.wf (.masterCycleAddressPhase .io 0x010000 false false) = false ∧
    Instr.wf (.masterCycleAddressPhase .io 0x00FFFF false false) = true := by decide

/-! ## Framing: words written out from the layouts of R174 -/

theorem test_frame_window_set :
    frame [0x13, 0x00, 0x10, 0x00, 0x34, 0x12, 0x03, 0x01, 0x00, 0x03, 0x00, 0x1F, 0x03, 0x00, 0x01, 0x02, 0x00,
      0x10, 0x00] =
      .request ⟨0x1234, .windowSet ⟨3, 1, 0x000300, 0x00031F, 1, 2, 0, 16, 0⟩, []⟩ := by decide

theorem test_frame_memory_write :
    frame [0x0B, 0x00, 0x19, 0x00, 0x01, 0x00, 0x00, 0x02, 0x00, 0xAA, 0xBB] =
      .request ⟨1, .memoryWrite 0x000200, [0xAA, 0xBB]⟩ := by decide

theorem test_frame_delay :
    frame [0x0A, 0x00, 0x56, 0x00, 0x05, 0x00, 0x40, 0x42, 0x0F, 0x00] = .request ⟨5, .delay 1000000, []⟩ := by decide

theorem test_frame_checks_in_order :
    frame [1, 2, 3] = .refused ⟨0x80, .badLength, 0⟩ ∧
    frame [7, 0, 0xEE, 1, 9, 0] = .refused ⟨0xEE, .badLength, 9⟩ ∧
    frame [6, 0, 0x6E, 1, 9, 0] = .refused ⟨0xEE, .badKind, 9⟩ ∧
    frame [6, 0, 0x56, 1, 9, 0] = .refused ⟨0xD6, .badField, 9⟩ ∧
    frame [6, 0, 0x56, 0, 9, 0] = .refused ⟨0xD6, .badLength, 9⟩ := by decide

/-! ## The step and the link -/

theorem test_step_takes_the_front :
    step (up.setPending [.sfaultFall, .identify 7 []]) = .next (up.setPending [.identify 7 []]) := rfl

theorem test_step_idles_on_an_empty_queue : step State.reset = .next State.reset :=
  congrArg Host.Outcome.next (show State.reset.settle = State.reset by decide)

theorem test_power_on_levels :
    let t := after (.powerOn true 0x80 0x8) up
    t.sfault = true ∧ (t.line 7).level = true ∧ (t.line 0).level = false ∧ (t.channel 3).sreq = true ∧
      t.sreset = .powerOn ∧ t.link.state = .detached := by decide

theorem test_release_takes_level_events :
    let s := (withLine .interrupt .level .hold (some readPort) .idle true).setSreset .powerOn
    ((after .powerOnSresetEnd s).line 2).state = .acting := by decide +kernel

theorem test_fill_then_configured :
    (after .startUpFillDone (State.reset.setMem [(3, 7)])).mem = [] ∧
    (after .linkConfigured (after .startUpFillDone State.reset)).link.state = .configured ∧
    (after .linkConfigured State.reset).link.state = .detached := by decide

theorem test_link_reset :
    let t := after .linkReset (withEntries [entry 5 (.delay 9) .active (some 9)])
    t.link.state = .detached ∧ t.queue = ⟨[], false, false⟩ := by decide

theorem test_link_reset_releases_lines :
    ((after .linkReset (withLine .interrupt .edge .hold none .inService false)).line 2).state = .idle ∧
    ((after .linkReset (withLine .interrupt .level .hold none .faulted true)).line 2).state = .inService := by decide

theorem test_link_reset_quiesces_a_moving_channel :
    ((after .linkReset (withChannel enabled .moving (some (block 0 2)) none true)).channel 1).quiescing = true := by
  decide

theorem test_part_reset_holds_the_slot :
    let t := after (.partReset 9 []) ((watching (watchRead false)).setSreset .slotReset)
    t.link.slot = .working .partReset 0x03 9 ∧ t.watch = Watch.initial ∧ t.bus = Bus.initial ∧
      t.sreset = .released ∧ t.refresh.timer = none := by decide

theorem test_part_reset_end :
    let t := after .partResetEnd (after (.partReset 9 []) up)
    t.link.report = .sending (.reply ⟨0x83, .ok, 9, .none⟩) ∧ t.refresh.timer = some 15 ∧ t.link.slot = .empty := by
  decide

theorem test_framing_refusal_is_replied :
    (after (.requestRefusedAtFraming [1, 2, 3]) up).link.report =
      .sending (.reply ⟨0x80, .badLength, 0, .none⟩) := by decide

theorem test_a_transfer_waits_behind_a_held_slot :
    (after (.statusGet 4 []) held).link.pipe = [.request ⟨4, .statusGet, []⟩] := by decide

theorem test_report_complete_takes_the_slot_then_the_pipe :
    let s := held.setLink { held.link with report := .sending (.reply ⟨0x81, .ok, 1, .identify⟩),
                                           pipe := [.request ⟨4, .queueResume, []⟩] }
    let t := after .reportTransferComplete s
    t.link.report = .sending (.reply ⟨0x81, .ok, 1, .identify⟩) ∧
      t.link.slot = .ready ⟨0xC1, .ok, 4, .none⟩ ∧ t.link.pipe = [] := by decide

/-! ## Requests about the part, the windows, base memory -/

theorem test_identify_bytes :
    Message.bytes (.reply ⟨0x81, .ok, 7, .identify⟩) =
      [0x13, 0x00, 0x81, 0x00, 0x07, 0x00, 0x16, 0xB0, 0x01, 0x00, 0x00, 0x10, 0x00, 16, 4, 8, 8, 32, 15] := by decide

theorem test_identify : (after (.identify 7 []) up).link.report = .sending (.reply ⟨0x81, .ok, 7, .identify⟩) := by
  decide

theorem test_status_get_is_62_bytes :
    (State.statusReport (withEntries [entry 5 readPort .active none])).bytes.length = 62 := by decide

theorem test_window_set :
    (after (.windowSet 1 (window 2 0x0A0000 0x0AFFFF) []) up).windows[2] =
      some ⟨.memory, 0x0A0000, 0x0AFFFF, .card, .wide, 0, 16, false⟩ := by decide

theorem test_window_set_overlap :
    (after (.windowSet 1 (window 2 0x09FFFF 0x0AFFFF) []) up).link.report =
      .sending (.reply ⟨0x90, .overlap, 1, .none⟩) := by decide

theorem test_window_clear : (after (.windowClear 1 0 []) up).windows[0] = none := by decide

theorem test_window_list :
    (after (.windowList 1 []) up).link.report = .sending (.reply ⟨0x92, .ok, 1, .windows windowsInitial⟩) := by decide

theorem test_memory_read_begins_with_an_odd_byte :
    (after (.memoryRead 1 0x000101 3 []) up).port.turn = some ⟨.link, 0x101, .one, .read⟩ := by decide

theorem test_memory_write_unit :
    let t := after (.memoryWrite 1 0x000100 [1, 2, 3]) up
    t.port.turn = some ⟨.link, 0x100, .two, .write 0x0201⟩ ∧ (after .memoryTurnEnd t).mem = [(0x100, 1), (0x101, 2)] := by
  decide

theorem test_memory_fill_reply :
    let t := after .memoryTurnEnd (after (.memoryFill 1 0x000200 2 0x5A []) up)
    t.mem = [(0x200, 0x5A), (0x201, 0x5A)] ∧ t.link.report = .sending (.reply ⟨0x9A, .ok, 1, .none⟩) := by decide

theorem test_data_bytes_refused :
    (after (.memoryRead 1 0 4 [0]) up).link.report = .sending (.reply ⟨0x98, .badField, 1, .none⟩) := by decide

/-! ## Refresh, channels -/

theorem test_refresh_set :
    let t := after (.refreshSet 1 20 1 []) (up.setRefresh ⟨15, some 15, true, 4, 9⟩)
    t.link.report = .sending (.reply ⟨0xA0, .ok, 1, .refresh 20 9⟩) ∧ t.refresh = ⟨20, some 20, true, 4, 0⟩ := by decide

theorem test_refresh_set_stops :
    (after (.refreshSet 1 0 0 []) (up.setRefresh ⟨15, some 15, true, 4, 9⟩)).refresh = ⟨0, none, false, 4, 9⟩ := by decide

theorem test_refresh_expiry_starts_a_refresh_cycle :
    let t := after .refreshTimerExpiry up
    t.bus.cycle = some (refreshCycle 0) ∧ t.arbiter = .granted .refresh ∧ t.refresh.pending = false := by decide

theorem test_refresh_late :
    let t := after .refreshTimerExpiry ((tenure none).setRefresh ⟨15, some 15, true, 0, 65535⟩)
    t.refresh.late = 65535 ∧ t.link.report = .sending (.notice ⟨.refresh, 1, .refresh 65535⟩) := by decide

theorem test_channel_set :
    ((after (.channelSet 1 ⟨1, 1, 0, 1, 0, 0, 0, 16, 0⟩ []) (up.setChannel 1 (Channel.initial true))).channel 1).starved =
      true ∧
    ((after (.channelSet 1 ⟨1, 1, 0, 1, 3, 0, 0, 16, 0⟩ []) (up.setChannel 1 (Channel.initial true))).channel 1).state =
      .master := by decide

theorem test_channel_stage :
    ((after (.channelStage 1 ⟨1, 0x000100, 2, 0⟩ []) (withChannel enabled .idle none none false)).channel 1).state =
      .ready ∧
    ((after (.channelStage 1 ⟨1, 0x000100, 2, 0⟩ [])
      (withChannel enabled .ready (some (block 0 1)) none false)).channel 1).staged = some (block 0 2) := by decide

theorem test_channel_quiesce_waits_for_the_boundary :
    (after (.channelQuiesce 1 1 []) (withChannel enabled .moving (some (block 0 2)) none true)).link.slot =
      .working (.quiesce 1) 0x2A 1 := by decide

theorem test_sreq_assert_starts_an_element :
    let t := after (.sreqAssert 1) (withChannel enabled .ready (some (block 0 2)) none false)
    t.arbiter = .granted (.channel 1) ∧ t.bus.cycle.map Cycle.address = some 0x100 := by decide

theorem test_sreq_deassert_ends_a_cascade_tenure :
    let t := after (.sreqDeassert 1) (tenure (some ⟨.io, 0x300, true, false, .none, true⟩))
    t.arbiter = .handback 1 ∧ (t.channel 1).state = .idle := by decide

theorem test_tenure_expiry_is_overstay :
    let t := after (.cascadeTenureExpiry 1) (tenure none)
    (t.channel 1).state = .heldOff ∧ t.arbiter = .idle ∧ t.link.report =
      .sending (.notice ⟨.channel 1, 1, .channel ⟨1, .overstay, 0, .heldOff, false, false, false, none, 0⟩⟩) := by decide

/-! ## Lines, the watch unit -/

theorem test_line_set_level_event :
    ((after (.lineSet 1 ⟨2, 1, 1, 0, .read ⟨1, 0x000300, 2⟩⟩ []) (up.setLine 2 (Line.initial true))).line 2).state =
      .acting := by decide

theorem test_line_end_again :
    let s := (withLine .interrupt .edge .hold none .inService false)
    ((after (.lineEnd 1 2 []) (s.setLine 2 { s.line 2 with again := true, edges := 3 })).line 2).state = .inService ∧
    ((after (.lineEnd 1 2 []) s).line 2).state = .idle := by decide

theorem test_sint_rise_without_an_action_posts :
    let t := after (.sintRise 2) (withLine .interrupt .edge .hold none .idle false)
    (t.line 2).state = .inService ∧
      t.link.report = .sending (.notice ⟨.line 2, 1, .line ⟨2, 1, .none, none, false⟩⟩) := by decide

theorem test_sint_rise_in_service_is_remembered :
    ((after (.sintRise 2) (withLine .interrupt .edge .hold none .inService false)).line 2).again = true := by decide

theorem test_sint_fall : ((after (.sintFall 2) (withLine .interrupt .edge .hold none .idle true)).line 2).level = false := by
  decide

theorem test_watch_set_arms :
    let slot : WatchSlotFields := ⟨1, 1, 0x000300, 2, 0xFFFF, 1⟩
    let empty : WatchSlotFields := ⟨0, 0, 0, 0, 0, 0⟩
    (after (.watchSet 1 ⟨0, 0, 2, #v[slot, empty, empty, empty, empty, empty, empty, empty]⟩ [])
      (withLine .trigger .edge .hold none .idle false)).watch.state = .armed := by decide

theorem test_watch_start_claims_the_bus :
    let t := after (.watchStart 1 []) (up.setWatch { scanning none with state := .stopped })
    t.watch.state = .scanning ∧ t.arbiter = .granted .watch ∧ t.bus.record.owner = .watch := by decide

theorem test_watch_stop_waits_for_a_granted_read :
    let t := after (.watchStop 1 []) (watching (watchRead false))
    t.watch.stopping = true ∧ t.link.slot = .working .watchStop 0x3A 1 := by decide

theorem test_watch_read_without_a_snapshot :
    (after (.watchRead 1 []) up).link.report = .sending (.reply ⟨0xBB, .ok, 1, .watchRead .stopped 0 none⟩) := by decide

theorem test_watch_rest_expiry :
    (after .watchRestExpiry (up.setWatch { scanning none with state := .resting, rest := some 9 })).watch.state =
      .scanning := by decide

/-! ## The request queue -/

theorem test_queue_pause :
    let t := after (.queuePause 1 []) (reading .nothing)
    t.queue.paused = true ∧ t.link.report = .sending (.reply ⟨0xC0, .ok, 1, .pause (some (5, true))⟩) := by decide

theorem test_queue_resume :
    (after (.queueResume 1 []) (up.setQueue ⟨[entry 5 (.delay 9) .queued none], true, true⟩)).queue =
      ⟨[entry 5 (.delay 9) .active (some 9)], false, false⟩ := by decide

theorem test_queue_flush :
    let t := after (.queueFlush 1 []) (withEntries [entry 5 (.delay 9) .active (some 9), entry 6 (.delay 9) .queued none])
    t.queue.entries.map Entry.state = [.active, .flushed] ∧
      t.link.report = .sending (.reply ⟨0xC2, .ok, 1, .flushed 1⟩) := by decide

theorem test_queue_cancel :
    ((after (.queueCancel 1 5 []) (withEntries [entry 6 (.delay 9) .done none, entry 5 (.delay 9) .active (some 9)])
      ).queue.entries.map fun e => (e.state, e.cancel, e.timer)) = [(.done, false, none), (.cancelled, true, none)] ∧
    (after (.queueCancel 1 5 []) (reading .nothing)).queue.entries.map Entry.cancel = [true] := by decide

theorem test_read_begins :
    let t := after (.read 5 ⟨1, 0x000300, 2⟩ []) up
    t.arbiter = .granted .engine ∧ t.bus.record = ⟨.io, 0x300, .queue 5⟩ ∧
      t.queue.entries.map Entry.state = [.active] := by decide

theorem test_write_value_out_of_width :
    (after (.write 5 ⟨1, 0x000300, 1⟩ 0x0100 []) up).link.report = .sending (.reply ⟨0xD1, .badField, 5, .none⟩) := by
  decide

theorem test_write_drives_the_value :
    (after (.write 5 ⟨1, 0x000300, 1⟩ 0x00A5 []) up).bus.cycle.map (fun c => (c.isWrite, c.drive)) =
      some (true, 0x00A5) := by decide

theorem test_modify_in_base_memory :
    let t := after .memoryTurnEnd (after (.modify 5 ⟨0, 0x000010, 1⟩ 0x00F0 0x0001 []) (up.setMem [(0x10, 0x3C)]))
    t.mem = [(0x10, 0x31)] ∧ t.link.report = .sending (.reply ⟨0xD2, .ok, 5, .entry
      ⟨5, .modify ⟨.memory, 0x10, .one⟩ 0x00F0 0x0001, .done, false, ⟨1, 0x10, 0⟩,
        ⟨some (0x003C, 0x0031), false, false, []⟩, none, none⟩⟩) := by decide

theorem test_transfer_fetches_first :
    (after (.transfer 5 ⟨1, 1, 0x000300, 2, 2, 4, 0, 0x000200, 0⟩ []) up).port.turn =
      some ⟨.engine, 0x200, .two, .read⟩ := by decide

theorem test_scan_claims : (after (.scan 5 ⟨1, 0x000300, 2, 1, 4, 0, 1, 1, 0, 0, 0⟩ []) up).arbiter = .granted .engine := by
  decide

theorem test_compare_claims :
    (after (.compare 5 ⟨1, 0x000300, 2, 1, 0x000200, 0, 4, 1, 0x00FF⟩ []) up).arbiter = .granted .engine := by decide

theorem test_delay_waits :
    (after (.delay 5 9 []) up).queue.entries = [entry 5 (.delay 9) .active (some 9)] := by decide

theorem test_delay_expiry :
    (after .delayExpiry (withEntries [entry 5 (.delay 9) .active (some 9)])).queue.entries = [] := by decide

theorem test_await_timeout :
    let t := after .awaitTimeout (withEntries [entry 5 (.await .watch 3) .active (some 3)])
    t.queue.halted = true ∧ t.queue.entries = [] := by decide

theorem test_await_event :
    let s := withLine .interrupt .edge .hold none .idle false
    (after (.sintRise 2) (s.setQueue ⟨[entry 5 (.await (.line 2) 3) .active (some 3)], false, true⟩)).link.report =
      .sending (.reply ⟨0xD7, .ok, 5, .entry (entry 5 (.await (.line 2) 3) .done none)⟩) := by decide

theorem test_await_admitted :
    (after (.await 5 0x0C 65535 []) up).queue.entries = [entry 5 (.await .watch 65535) .active (some 65535)] := by decide

theorem test_slot_reset_asserts :
    let t := after (.slotReset 5 10 []) (tenure none)
    t.sreset = .slotReset ∧ t.arbiter = .idle ∧ (t.channel 1).state = .idle := by decide

theorem test_slot_reset_expiry :
    let s := (withEntries [entry 5 (.slotReset 10) .active (some 10)]).setSreset .slotReset
    (after .slotResetExpiry s).sreset = .released := by decide +kernel

/-- One SlotReset at its expiry, a second QUEUED behind it, and a claimant beside them. -/
def resetAgain (s : State) : State :=
  (s.setQueue ⟨[entry 5 (.slotReset 10) .active (some 10), entry 6 (.slotReset 10) .queued none], false, false⟩).setSreset
    .slotReset

theorem test_release_grants_before_the_next_slot_reset :
    let t := after .slotResetExpiry (resetAgain (withChannel enabled .ready (some (block 0 2)) none true))
    t.sreset = .slotReset ∧ t.arbiter = .granted (.channel 1) ∧ (t.channel 1).state = .moving ∧
      (t.channel 1).stopped = true := by decide +kernel

theorem test_release_lets_the_watch_read_start :
    let t := after .slotResetExpiry (resetAgain (up.setWatch (scanning none)))
    t.sreset = .slotReset ∧ t.arbiter = .granted .watch ∧ t.watch.read.map WatchRead.discard = some true := by
  decide +kernel

theorem test_scan_interval_expiry :
    let scan : Op := .scan port .fixed 4 .eq 1 1 9 none
    (after (.scanIntervalExpiry .entry) (withEntries [entry 5 scan .active (some 9)])).arbiter = .granted .engine := by
  decide

/-! ## Cycles, the memory port, a master -/

theorem test_cycle_end_finishes_a_read :
    let t := after (.cycleEnd (List.replicate 4 false) true 0xBEEF) (reading .nothing)
    t.arbiter = .idle ∧ t.link.report = .sending (.reply ⟨0xD0, .ok, 5, .entry
      { entry 5 readPort .done none with progress := ⟨1, 0x300, 0⟩, result := ⟨some (0xBEEF, 0), false, false, []⟩ }⟩) := by
  decide

theorem test_cycle_end_channel_check :
    let t := after (.cycleEnd (List.replicate 4 false) true 0xBEEF) ((reading .nothing).setSfault true)
    t.queue.halted = true ∧ t.link.report = .sending (.reply ⟨0xD0, .channelCheck, 5, .entry
      { entry 5 readPort .failed none with fail := some ⟨.channelCheck, some (.io, 0x300), false⟩ }⟩) := by decide

theorem test_ready_timeout :
    (Cycle.run (List.replicate 128 true) (element .nothing .card).group.cycle) = .running
      { (element .nothing .card).group.cycle with clock := 129, held := true } ∧
    ((after (.readyTimeoutExpiry (List.replicate 129 true)) (reading .nothing)).queue.halted = true) := by decide +kernel

theorem test_dma_element_end :
    let s := ((withChannel enabled .moving (some (block 0 1)) none true).setArbiter (.granted (.channel 1))).setCycle
      (some (dmaCycle 1 enabled (block 0 1)))
    let t := after (.cycleEnd [false, false, false] false 0x00A5) s
    t.port.turn = some ⟨.dmaStore 1, 0x100, .one, .write 0x00A5⟩ ∧ (t.channel 1).state = .idle ∧
      t.link.report = .sending (.notice ⟨.channel 1, 1, .channel ⟨1, .blockDone, 1, .idle, false, false, false, none, 0⟩⟩) ∧
      (t.channel 1).blocksDone = 0 := by decide

theorem test_refresh_cycle_end :
    let s := (up.setArbiter (.granted .refresh)).setCycle (some (refreshCycle 0))
    (after (.cycleEnd [true, true, true] false 0) s).refresh.row = 1 := by decide

theorem test_sfault_rise :
    (after .sfaultRise (up.setRecord ⟨.io, 0x300, .queue 5⟩)).link.report =
      .sending (.notice ⟨.check, 1, .check ⟨.io, 0x300, .queue 5⟩⟩) := by decide

theorem test_sfault_fall : (after .sfaultFall (up.setSfault true)).sfault = false := by decide

theorem test_memory_turn_end_of_a_store :
    (after .memoryTurnEnd (turn (.dmaStore 1) .two (.write 0x0201))).mem = [(0x10, 1), (0x11, 2)] := by decide

theorem test_master_read_is_answered :
    let t := after (.masterCycleAddressPhase .memory 0x000010 true false) ((tenure none).setMem [(0x10, 1), (0x11, 2)])
    t.bus.master = some ⟨.memory, 0x10, false, true, .readWait, false⟩ ∧
      (after .memoryTurnEnd t).bus.master = some ⟨.memory, 0x10, false, true, .readServed 0x0201, false⟩ := by decide

theorem test_master_write_to_a_protected_window :
    let s := (tenure none).setWindows (windowsInitial.set 0 (some { Window.initial with writeProtect := true }))
    ((after (.masterCycleAddressPhase .memory 0x000010 true true) s).channel 1).protectHit = true := by decide

theorem test_master_strobe_assert_requests_the_store :
    (after (.masterStrobeAssert 0xBEEF) (tenure (some ⟨.memory, 0x10, true, false, .writeIdle 0x10, false⟩))).port.turn =
      some ⟨.masterStore, 0x10, .one, .write 0x00EF⟩ := by decide

def handback : State :=
  ((tenure (some ⟨.memory, 0x10, true, false, .writeWait, true⟩)).setArbiter (.handback 1)).setPort
    { Port.initial with turn := some ⟨.masterStore, 0x10, .one, .write 0x00EF⟩ }

theorem test_master_strobe_release :
    let t := after .masterStrobeRelease handback
    t.bus.master = none ∧ t.arbiter = .idle ∧ (after .memoryTurnEnd t).mem = [(0x10, 0xEF)] := by decide

theorem test_handback_timeout_stores_nothing :
    let t := after .handbackTimeout handback
    t.bus.master = none ∧ t.arbiter = .idle ∧ (after .memoryTurnEnd t).mem = [] := by decide

/-! ## Witnesses: the hypotheses of each statement, met -/

theorem test_witness_StepRunsFrontCommand : (up.setPending [.sfaultFall]).pending = .sfaultFall :: [] ∧ up.pending = [] :=
  ⟨rfl, rfl⟩

def partResetting : State :=
  up.setLink { up.link with slot := .working .partReset 0x03 9, resetting := true }

theorem test_witness_PartResetAndItsEnd :
    up.Listening ∧ up.sreset ≠ .powerOn ∧ (up.setSreset .powerOn).Listening ∧
    (partResetting.link.resetting = true ∧ partResetting.port.turn = none ∧
      partResetting.link.slot = .working .partReset 0x03 9) ∧
    up.link.resetting = false ∧ (turn .orphan .one .read).port.turn ≠ none :=
  ⟨test_up_listens, by decide, ⟨rfl, rfl, rfl⟩, by decide, rfl, by decide⟩

theorem test_witness_StartUpReleaseAndConfiguration :
    State.reset.link.filled = false ∧ up.link.filled = true ∧
    ((after .startUpFillDone State.reset).link.state = .detached ∧
      (after .startUpFillDone State.reset).link.filled = true) ∧
    up.link.state = .configured ∧ State.reset.sreset = .powerOn ∧ up.sreset ≠ .powerOn := by decide

theorem test_witness_LinkResetReachesEveryBlock :
    State.reset.link.state = .detached ∧ up.link.state = .configured ∧ (up.channel 1).state ≠ .moving ∧
    ((withChannel enabled .moving (some (block 0 2)) none true).channel 1).state = .moving ∧
    ((withLine .interrupt .edge .hold none .inService false).line 2).state = .inService ∧
    ((withLine .interrupt .edge .hold none .faulted false).line 2).state = .faulted ∧
    ((withLine .interrupt .edge .hold none .faulted false).line 2).mode = .edge ∧
    (up.line 2).state = .disabled ∧ ((withLine .interrupt .edge .hold (some readPort) .pending false).line 2).state =
      .pending ∧ ((withLine .interrupt .edge .hold (some readPort) .acting false).line 2).state = .acting := by decide

theorem test_witness_RequestsDiscardedOrHeldOff :
    (Instr.statusGet 4 []).request? = some ⟨4, .statusGet, []⟩ ∧ State.reset.link.state = .detached ∧
    held.link.state = .configured ∧ held.link.slot ≠ .empty := by decide

theorem test_witness_DataBytesRefused :
    (Instr.memoryRead 1 0 4 [0]).request? = some ⟨1, .memoryRead 0 4, [0]⟩ ∧
    HostRequest.wf ⟨1, .memoryRead 0 4, [0]⟩ = true ∧ (RequestBody.memoryRead 0 4).takesData = false ∧
    ([0] : List Byte) ≠ [] ∧ up.Listening := ⟨rfl, by decide, rfl, by decide, test_up_listens⟩

theorem test_witness_FramingChecksInOrder :
    ([1, 2, 3, 4, 5] : List Byte).length < 6 ∧
    (¬ (((0 : Byte) ++ (7 : Byte) : Word).toNat = ([7, 0, 0xEE, 1, 9, 0] : List Byte).length)) ∧
    (((0 : Byte) ++ (6 : Byte) : Word).toNat = ([6, 0, 0x6E, 1, 9, 0] : List Byte).length ∧ (∀ b : RequestBody, b.kind ≠ 0x6E)) ∧
    ((∃ b : RequestBody, b.kind = 0x56) ∧ (1 : Byte) ≠ 0) ∧
    (((0 : Byte) ++ (9 : Byte) : Word).toNat = ([9, 0, 0x56, 0, 9, 0, 1, 2, 3] : List Byte).length ∧
      (RequestBody.delay 0).kind = 0x56 ∧ (∀ f, RequestBody.delay 0 ≠ .lineSet f) ∧
      ([1, 2, 3] : List Byte).length < (RequestBody.delay 0).size) ∧
    (((0 : Byte) ++ (10 : Byte) : Word).toNat = ([10, 0, 0x30, 0, 9, 0, 1, 2, 3, 4] : List Byte).length ∧
      ([1, 2, 3, 4] : List Byte).length < 5) ∧
    frame [1, 2, 3] = .refused ⟨0x80, .badLength, 0⟩ ∧ up.Listening := by
  refine ⟨by decide, by decide, ⟨by decide, fun b => ?_⟩, ⟨⟨.delay 0, rfl⟩, by decide⟩,
    ⟨by decide, rfl, fun f => by simp, by decide⟩, by decide, by decide, test_up_listens⟩
  cases b <;> simp [RequestBody.kind]

theorem test_witness_FramingReadsWhatIsEncoded :
    HostRequest.wf ⟨0xFFFF, .memoryWrite 0xFFFFFF, List.replicate 1091 0xFF⟩ = true := by decide +kernel

def noticed (b : NoticeBody) : State := up.setNotices [⟨.channel 1, 1, b⟩]

def blockDone : ChannelBody := ⟨1, .blockDone, 1, .idle, false, false, false, none, 0⟩

theorem test_witness_ReportPipeTakesInOrder :
    (held.link.state = .configured ∧ held.link.pipe = [] ∧ held.link.slot = .ready ⟨0x81, .ok, 1, .identify⟩) ∧
    (∀ r, up.link.slot ≠ .ready r) ∧ (entry 5 readPort .done none).isFinished = true ∧
    (∀ e ∈ up.queue.entries.head?, e.isFinished = false) ∧ up.notices = [] ∧
    (∀ e ∈ (withEntries [entry 5 readPort .active none]).queue.entries.head?, e.isFinished = false) ∧
    (∀ b, (NoticeBody.refresh 1) ≠ .channel b) ∧ (noticed (.channel blockDone)).notices =
      [⟨.channel 1, 1, .channel blockDone⟩] := by
  refine ⟨by decide, fun r => ?_, rfl, by simp [up, State.reset, State.powerOn, Queue.initial], rfl, ?_,
    fun b => by simp, rfl⟩
  · simp [up]
  · simp [withEntries, State.setQueue, entry, Entry.isFinished]

theorem test_witness_StatusGetReportsTheState :
    up.Listening ∧ up.queue.active = none ∧
    (withEntries [entry 5 readPort .active none]).Listening ∧
    (withEntries [entry 5 readPort .active none]).queue.active = some (entry 5 readPort .active none) :=
  ⟨test_up_listens, by decide, ⟨rfl, rfl, rfl⟩, by decide⟩

/-- Entry 0 alone is valid after reset. -/
theorem onlyWindow : ∀ n : Fin 16, n ≠ 0 → up.windows[n.val] = none := by decide

theorem onlyWindow_eq {n : Fin 16} {w : Window} (h : up.windows[n.val] = some w) : n = 0 ∧ w = Window.initial := by
  by_cases e : n = 0
  · subst e; exact ⟨rfl, (Option.some.inj h).symm⟩
  · rw [onlyWindow n e] at h; cases h

theorem test_witness_WindowSetChecksAndStores :
    up.Listening ∧ (∀ n w, ¬ (window 16 0 0).Asks n w) ∧
    (window 15 0 0xFFFFFF).Asks 15 ⟨.memory, 0, 0xFFFFFF, .card, .wide, 0, 16, false⟩ ∧
    (∃ (m : Fin 16) (w' : Window), m ≠ 15 ∧ up.windows[m.val] = some w' ∧ w'.space = .memory ∧ w'.base ≤ 0xFFFFFF ∧
      0 ≤ w'.limit) ∧
    (window 15 0x0A0000 0xFFFFFF).Asks 15 ⟨.memory, 0x0A0000, 0xFFFFFF, .card, .wide, 0, 16, false⟩ ∧
    (∀ (m : Fin 16) (w' : Window), m ≠ 15 → up.windows[m.val] = some w' → w'.space = .memory →
      0xFFFFFF < w'.base ∨ w'.limit < 0x0A0000) :=
  ⟨test_up_listens, fun n w h => absurd (checkWindow_some.mpr h) (by rw [show checkWindow (window 16 0 0) = none by decide]; simp),
    checkWindow_some.mp (by decide), ⟨0, Window.initial, by decide, rfl, by decide⟩, checkWindow_some.mp (by decide),
    fun m w' _ h _ => by obtain ⟨_, rfl⟩ := onlyWindow_eq h; decide⟩

theorem test_witness_WindowClearAndList :
    up.Listening ∧ 16 ≤ (16 : Byte).toNat ∧ (15 : Byte).toNat = (15 : Fin 16).val ∧ (0 : Byte).toNat = (0 : Fin 16).val ∧
    up.windows[15] = none ∧ windowsOk up.windows ∧ up.windows[0] = some Window.initial ∧
    Window.initial.base ≤ 0x09FFFF ∧ 0x09FFFF ≤ Window.initial.limit :=
  ⟨test_up_listens, by decide, by decide, by decide, rfl, windowsOk_initial, rfl, by decide, by decide⟩

theorem test_witness_LookupFindsTheWindow :
    (windowsOk up.windows ∧ up.windows[0] = some Window.initial ∧ Window.initial.base ≤ 0 ∧ 0 ≤ Window.initial.limit) ∧
    ∀ (n : Fin 16) (w : Window), up.windows[n.val] = some w → w.space = .memory → 0x0A0000 < w.base ∨ w.limit < 0x0A0000 :=
  ⟨⟨windowsOk_initial, rfl, by decide, by decide⟩,
    fun n w h _ => by obtain ⟨_, rfl⟩ := onlyWindow_eq h; decide⟩

/-- A table whose last byte of base memory is mapped. -/
def lastByte : Vector (Option Window) 16 :=
  windowsInitial.set 1 (some ⟨.memory, 0x0FFFFF, 0x0FFFFF, .baseMemory, .wide, 0, 16, true⟩)

theorem test_witness_ChecksAtAnElementsStart :
    (⟨.blocked, .wide, 0, 16, true⟩ : Attrs).owner = .blocked ∧
    ((⟨.card, .wide, 0, 16, true⟩ : Attrs).owner ≠ .blocked ∧ (⟨.card, .wide, 0, 16, true⟩ : Attrs).writeProtect = true) ∧
    (⟨.baseMemory, .wide, 0, 16, false⟩ : Attrs).owner = .baseMemory ∧
    ((-1 : Int) < 0 ∧ (0xFFFFF : Int) < 0x100000) ∧ (lookup lastByte .memory 0x0A0000).owner ≠ .baseMemory ∧
    (lookup lastByte .memory 0x0FFFFF).owner = .baseMemory ∧ (lookup lastByte .memory 0x0FFFFF).writeProtect = true ∧
    (lookup lastByte .memory 0x09FFFF).owner = .baseMemory := by decide

theorem test_witness_WindowsFrame :
    exec .sfaultFall up = .next (up.setSfault false) ∧ up.link.pipe = [] ∧
    (∀ tag f d, Instr.sfaultFall ≠ .windowSet tag f d) ∧ (∀ tag e d, Instr.sfaultFall ≠ .windowClear tag e d) ∧
    (∀ tag d, Instr.sfaultFall ≠ .partReset tag d) ∧ (∀ a b d, Instr.sfaultFall ≠ .powerOn a b d) ∧
    ∀ l, Instr.sfaultFall ≠ .requestRefusedAtFraming l := by
  refine ⟨rfl, rfl, ?_, ?_, ?_, ?_, ?_⟩ <;> simp

theorem test_witness_MemoryRequestsBeginOrAreRefused :
    up.Listening ∧ (1 ≤ (1024 : Word).toNat ∧ (0xFFC00 : BitVec 24).toNat + (1024 : Word).toNat ≤ 0x100000) ∧
    (List.replicate 1024 (0 : Byte)).length ≤ 1024 ∧
    (1 ≤ (1048576 : BitVec 24).toNat ∧ (0 : BitVec 24).toNat + (1048576 : BitVec 24).toNat ≤ 0x100000) ∧
    1024 < (1025 : Word).toNat ∧ 0xFFFFF < (0x100000 : BitVec 24).toNat ∧
    0xFFFFF < (0xFFFFF : BitVec 24).toNat + (2 : Word).toNat - 1 ∧
    (1024 < (List.replicate 1025 (0 : Byte)).length ∧ (List.replicate 1025 (0 : Byte)).length ≤ 1091) ∧
    1048576 < (1048577 : BitVec 24).toNat :=
  ⟨test_up_listens, by decide, Nat.le_of_eq List.length_replicate, by decide, by decide, by decide, by decide,
    by rw [List.length_replicate]; decide, by decide⟩

theorem test_witness_MemoryTurnEndServes :
    (turn (.dmaStore 1) .two (.write 1)).port.turn = some ⟨.dmaStore 1, 0x10, .two, .write 1⟩ ∧
    (let c := dmaCycle 1 { enabled with direction := .memoryToCard } (block 0 2)
     c.kind = .dma 1 ∧ c.needsUnit = true) ∧
    (tenure (some ⟨.memory, 0x10, false, false, .readWait, false⟩)).bus.master =
      some ⟨.memory, 0x10, false, false, .readWait, false⟩ ∧
    handback.bus.master = some ⟨.memory, 0x10, true, false, .writeWait, true⟩ ∧
    ((up.setWatch (scanning (some (watchRead false)))).watch.read = some (watchRead false) ∧
      (scanning (some (watchRead false))).stopping = false) ∧
    (let t := after (.memoryRead 1 0x000100 4 []) up
     t.port.turn.map MemUnit.requester = some .link ∧ t.port.link = some ⟨.read [], 0x100, 0x104⟩ ∧
       t.link.slot = .working .memory 0x18 1) ∧
    (let t := after (.memoryRead 1 0x000100 2 []) up
     t.port.link = some ⟨.read [], 0x100, 0x102⟩ ∧ t.link.slot = .working .memory 0x18 1) ∧
    (let t := after (.modify 5 ⟨0, 0x000010, 1⟩ 0x00F0 0x0001 []) up
     t.port.turn.map MemUnit.requester = some .engine ∧ t.port.watch = none ∧
       t.engine.element.map (fun e => (e.stage, e.item, e.after)) = some (.card, .entry, .nothing)) := by decide

theorem test_witness_PortChoosesAndServes :
    Mem.wf [(0x10, 1), (0xFFFFF, 2)] = true ∧
    (let u : MemUnit := ⟨.engine, 0, .one, .read⟩
     let j : LinkJob := ⟨.read [], 0, 4⟩
     let both : Port := ⟨none, .link, [u], none, none, some j⟩
     (both.turn = none ∧ both.bus = [u] ∧ both.last = .link) ∧
     (let p : Port := { Port.initial with engine := some u }; p.bus = [] ∧ p.engine = some u ∧ p.link = none) ∧
     (let p : Port := { Port.initial with watch := some u }; p.engine = none ∧ p.watch = some u) ∧
     (let p : Port := { both with last := .slot }; p.link = some j ∧ p.last = .slot) ∧
     (Port.initial.bus = [] ∧ Port.initial.engine = none ∧ Port.initial.watch = none ∧ Port.initial.link = none)) := by
  decide

theorem test_witness_MemoryFrame :
    exec .sfaultFall up = .next (up.setSfault false) ∧ Instr.sfaultFall ≠ .memoryTurnEnd ∧
    exec .memoryTurnEnd up = .next (after .memoryTurnEnd up) ∧ up.port.turn = none ∧
    (turn .orphan .two .read).port.turn = some ⟨.orphan, 0x10, .two, .read⟩ ∧
    exec .startUpFillDone State.reset = .next (after .startUpFillDone State.reset) ∧
    State.reset.link.filled = false ∧ up.link.filled = true :=
  ⟨rfl, by simp, rfl, rfl, rfl, rfl, rfl, rfl⟩

theorem test_witness_RefreshSetSetsTheGenerator :
    up.Listening ∧ (1 ≤ (1 : Byte).toNat ∧ (3 : Byte).toNat ≤ 3) ∧ 2 ≤ (2 : Byte).toNat ∧
    (4 ≤ (4 : Byte).toNat ∧ 4 ≤ (255 : Byte).toNat ∧ (1 : Byte).toNat ≤ 1 ∧ (0 : Byte).toNat ≤ 1) :=
  ⟨test_up_listens, by decide, by decide, by decide⟩

theorem test_witness_RefreshTimerExpires :
    (up.setRefresh (Refresh.initial none)).refresh.timer = none ∧
    (up.refresh.timer ≠ none ∧ up.refresh.pending = false) ∧
    (up.setRefresh ⟨15, some 15, true, 0, 65535⟩).refresh.pending = true := by decide

def channelFields : ChannelFields := ⟨1, 1, 0, 1, 3, 0, 0, 16, 5⟩

theorem test_witness_ChannelSetReplacesTheRecord :
    up.Listening ∧ (∀ n c, ¬ ({ channelFields with channel := 4 }).Asks n c) ∧ channelFields.Asks 1 cascade ∧
    ({ channelFields with channel := 3, waitCount := 7, readyTimeout := 255 }).Asks 3
      { cascade with waitCount := 7, readyTimeout := 255 } ∧
    ((withChannel enabled .moving (some (block 0 2)) none true).Listening ∧
      ((withChannel enabled .moving (some (block 0 2)) none true).channel 1).state = .moving) ∧
    ((tenure none).Listening ∧ ((tenure none).channel 1).state = .master) ∧
    ((up.channel 1).state ≠ .moving ∧ (up.channel 1).state ≠ .master) :=
  ⟨test_up_listens,
    fun n c h => absurd (checkChannel_some.mpr h)
      (by rw [show checkChannel { channelFields with channel := 4 } = none by decide]; simp),
    checkChannel_some.mp (by decide), checkChannel_some.mp (by decide), ⟨⟨rfl, rfl, rfl⟩, by decide⟩,
    ⟨⟨rfl, rfl, rfl⟩, by decide⟩, by decide⟩

theorem test_witness_ChannelStagePlacesTheBlock :
    up.Listening ∧ (∀ n b, ¬ (⟨1, 0x100000, 1, 0⟩ : StageFields).Asks n b) ∧
    (⟨1, 0x0FFFFF, 65536, 0⟩ : StageFields).Asks 1 ⟨0xFFFFF, 65536, .inc, 0, 0xFFFFF⟩ ∧
    (up.channel 1).state = .off ∧ ((withChannel enabled .faulted none none false).channel 1).state = .faulted ∧
    ((tenure none).channel 1).config.mode = .cascade ∧
    (let c := (withChannel enabled .idle none none false).channel 1
     c.state ≠ .off ∧ c.state ≠ .faulted ∧ c.config.mode ≠ .cascade ∧ c.current = none) ∧
    (let c := (withChannel enabled .ready (some (block 0 2)) none false).channel 1
     c.current ≠ none ∧ c.staged = none) ∧
    (let c := (withChannel enabled .ready (some (block 0 2)) (some (block 0 2)) false).channel 1
     c.current ≠ none ∧ c.staged ≠ none) :=
  ⟨test_up_listens,
    fun n b h => absurd (checkStage_some.mpr h)
      (by rw [show checkStage ⟨1, 0x100000, 1, 0⟩ = none by decide]; simp),
    checkStage_some.mp (by decide), by decide, by decide, by decide, by decide, by decide, by decide⟩

def strobed (b : Bool) : Option MasterCycle := some ⟨.io, 0x300, true, false, .none, b⟩

theorem test_witness_ChannelQuiesceStops :
    up.Listening ∧ 4 ≤ (4 : Byte).toNat ∧ (3 : Byte).toNat = (3 : Fin 4).val ∧ (up.channel 3).state = .off ∧
    ((withChannel enabled .ready (some (block 0 2)) none false).channel 1).state = .ready ∧
    ((withChannel cascade .waiting none none true).channel 1).state = .waiting ∧
    ((withChannel cascade .heldOff none none true).channel 1).state = .heldOff ∧
    ((withChannel enabled .moving (some (block 0 2)) none true).channel 1).state = .moving ∧
    ((tenure none).Listening ∧ ((tenure none).channel 1).state = .master ∧ (tenure none).bus.master = none) ∧
    ((tenure (strobed true)).bus.master = strobed true ∧ (strobed true).map MasterCycle.strobe = some true) ∧
    ((tenure (strobed false)).bus.master = strobed false ∧ (strobed false).map MasterCycle.strobe = some false) :=
  ⟨test_up_listens, by decide, by decide, by decide, by decide, by decide, by decide, by decide,
    ⟨⟨rfl, rfl, rfl⟩, by decide, rfl⟩, by decide, by decide⟩

theorem test_witness_TerminalCountSettlesTheSlots :
    ((withChannel enabled .moving (some (block 1 2)) (some (block 0 2)) true).channel 1).staged = some (block 0 2) ∧
    (let c := (withChannel { enabled with endMode := .reload } .moving (some (block 1 2)) none true).channel 1
     c.staged = none ∧ c.config.endMode = .reload) ∧
    (let c := (withChannel enabled .moving (some (block 1 2)) none true).channel 1
     c.staged = none ∧ c.config.endMode = .once) ∧ (0 : Fin 4) ≠ 1 := by decide

theorem test_witness_SreqAndTenureReachTheChannel :
    ((withChannel cascade .waiting none none true).channel 1).state = .waiting ∧
    ((withChannel cascade .heldOff none none true).channel 1).state = .heldOff ∧ (up.channel 1).state = .off ∧
    (((tenure none).channel 1).state = .master ∧ (tenure none).bus.master = none ∧
      ((tenure none).channel 1).tenureTimer ≠ none) ∧
    (tenure (strobed true)).bus.master = strobed true ∧ (tenure (strobed false)).bus.master = strobed false := by decide

def lineFields (role mode : Byte) (a : ActionFields) : LineFields := ⟨7, role, mode, 0, a⟩

theorem test_witness_LineSetReplacesTheRecord :
    up.Listening ∧ HostRequest.wf ⟨1, .lineSet (lineFields 1 1 .absent), []⟩ = true ∧
    (∀ n c, ¬ (lineFields 2 1 .absent).Asks [] n c) ∧
    (lineFields 1 1 .absent).Asks [] 7 ⟨.interrupt, .level, .hold, none⟩ ∧
    (lineFields 1 1 (.read ⟨1, 0x000300, 2⟩)).Asks [] 7 ⟨.interrupt, .level, .hold, some readPort⟩ ∧
    ((up.setLine 7 { Line.initial true with state := .acting }).line 7).state = .acting ∧
    ((up.setLine 7 (Line.initial true)).line 7).state ≠ .acting ∧
    (((up.setLine 7 (Line.initial true)).line 7).level = true ∧ up.sreset = .released) ∧
    ((up.setLine 7 (Line.initial false)).line 7).level = false :=
  ⟨test_up_listens, by decide,
    fun n c h => absurd (checkLine_some.mpr h)
      (by rw [show checkLine (lineFields 2 1 .absent) [] = none by decide]; simp),
    checkLine_some.mp (by decide), checkLine_some.mp (by decide), by decide, by decide, by decide, by decide⟩

theorem test_witness_LineEndReleases :
    up.Listening ∧ 8 ≤ (8 : Byte).toNat ∧ (7 : Byte).toNat = (7 : Fin 8).val ∧ (2 : Byte).toNat = (2 : Fin 8).val ∧
    ((up.line 7).state ≠ .inService ∧ (up.line 7).state ≠ .faulted) ∧
    (let s := withLine .interrupt .edge .hold none .inService false
     s.Listening ∧ (s.line 2).state = .inService ∧ (s.line 2).again = false ∧ (s.line 2).level = false) ∧
    (let l := (withLine .interrupt .level .hold (some readPort) .faulted true).line 2
     l.state = .faulted ∧ l.mode = .level ∧ l.level = true ∧ l.action ≠ none ∧ up.sreset = .released) ∧
    (let l := (withLine .interrupt .level .hold none .faulted true).line 2
     l.mode = .level ∧ l.level = true ∧ l.action = none) :=
  ⟨test_up_listens, by decide, by decide, by decide, by decide, ⟨⟨rfl, rfl, rfl⟩, by decide⟩, by decide, by decide⟩

theorem test_witness_SintEdgesByRole :
    ((withLine .interrupt .edge .hold none .idle true).line 2).level = true ∧
    ((up.line 2).level = false ∧ (up.line 2).role = .disabled ∧ up.sreset = .released ∧ up.link.resetting = false) ∧
    (let s := (withLine .trigger .edge .hold none .idle false).setWatch
      { scanning none with state := .armed, trigger := some 2 }
     (s.line 2).role = .trigger ∧ s.watch.trigger = some 2 ∧ s.watch.state ≠ .stopped) ∧
    (let s := withLine .trigger .edge .hold none .idle false
     (s.line 2).role = .trigger ∧ s.watch.trigger ≠ some 2) ∧
    (let l := (withLine .interrupt .edge .hold (some readPort) .idle false).line 2
     l.role = .interrupt ∧ l.state = .idle ∧ l.action ≠ none) ∧
    (let l := (withLine .interrupt .edge .hold none .idle false).line 2
     l.state = .idle ∧ l.action = none) ∧
    ((withLine .interrupt .edge .hold (some readPort) .acting false).line 2).state = .acting := by decide

def emptySlot : WatchSlotFields := ⟨0, 0, 0, 0, 0, 0⟩

def watchFields (mode : Byte) (trigger : Byte) : WatchFields :=
  ⟨mode, 9, trigger, #v[⟨1, 1, 0x000300, 2, 0xFFFF, 1⟩, emptySlot, emptySlot, emptySlot, emptySlot, emptySlot, emptySlot,
    emptySlot]⟩

def watchConfig (mode : WatchMode) (trigger : Option (Fin 8)) : WatchConfig :=
  ⟨mode, 9, trigger, #v[some watchEntry, none, none, none, none, none, none, none]⟩

theorem test_witness_WatchSetReplacesTheSettings :
    up.Listening ∧ (∀ c, ¬ (watchFields 2 0xFF).Asks c) ∧ (watchFields 0 7).Asks (watchConfig .single (some 7)) ∧
    (watchFields 1 0xFF).Asks (watchConfig .cyclic none) ∧
    ((up.setWatch (scanning none)).Listening ∧ (up.setWatch (scanning none)).watch.state ≠ .stopped) ∧
    (up.watch.state = .stopped ∧ ∃ n, (watchConfig .single (some 7)).trigger = some n ∧ (up.line n).role ≠ .trigger) ∧
    (let s := up.setLine 7 { Line.initial false with role := .trigger, state := .idle }
     s.watch.state = .stopped ∧ (∀ n, (watchConfig .single (some 7)).trigger = some n → (s.line n).role = .trigger) ∧
       ∃ i : Fin 8, (watchConfig .single (some 7)).slots[i.val] ≠ none) ∧
    ∀ n, (watchConfig .cyclic none).trigger = some n → (up.line n).role = .trigger :=
  ⟨test_up_listens,
    fun c h => absurd (checkWatch_some.mpr h) (by rw [show checkWatch (watchFields 2 0xFF) = none by decide]; simp),
    checkWatch_some.mp (by decide), checkWatch_some.mp (by decide), ⟨⟨rfl, rfl, rfl⟩, by decide⟩,
    ⟨rfl, 7, rfl, by decide⟩, ⟨rfl, fun n h => by cases h; decide, 0, by decide⟩, fun n h => by cases h⟩

theorem test_witness_WatchStartBeginsAPass :
    up.Listening ∧ (∀ i : Fin 8, up.watch.slots[i.val] = none) ∧
    ((up.setWatch (scanning none)).Listening ∧ ∃ i : Fin 8, (scanning none).slots[i.val] ≠ none) ∧
    (let w := { scanning none with state := .resting, rest := some 9 }; w.state = .resting ∧ w.rest ≠ none) ∧
    up.watch.state ≠ .resting ∧ up.watch.read = none ∧
    ((up.setWatch (scanning (some (watchRead false)))).watch.read = some (watchRead false) ∧
      (up.setWatch (scanning (some (watchRead false)))).watchReadRunning = false) ∧
    ((watching (watchRead false)).watch.read = some (watchRead false) ∧
      (watching (watchRead false)).watchReadRunning = true) :=
  ⟨test_up_listens, by decide, ⟨⟨rfl, rfl, rfl⟩, 3, by decide⟩, by decide, by decide, rfl, by decide, by decide⟩

theorem test_witness_WatchStopStops :
    up.Listening ∧ up.watch.state ≠ .scanning ∧
    (let s := up.setWatch (scanning (some (watchRead false)))
     s.Listening ∧ s.watch.state = .scanning ∧ s.watch.read = some (watchRead false) ∧ s.watchReadRunning = false) ∧
    (let s := watching (watchRead false)
     s.Listening ∧ s.watch.state = .scanning ∧ s.watch.read = some (watchRead false) ∧ s.watchReadRunning = true) :=
  ⟨test_up_listens, by decide, ⟨⟨rfl, rfl, rfl⟩, by decide⟩, ⟨⟨rfl, rfl, rfl⟩, by decide⟩⟩

theorem test_witness_WatchPassCompletes :
    up.watch.mode = .single ∧ ({ up.watch with mode := .cyclic }).interval = 0 ∧
    ({ up.watch with mode := .cyclic, interval := 1 }).interval ≠ 0 ∧ (∀ i, up.watch.entryReported i = false) ∧
    (∃ i, (scanning none).entryReported i = true) ∧
    (withEntries [entry 5 (.await .watch 3) .active (some 3)]).queue.active =
      some (entry 5 (.await .watch 3) .active (some 3)) ∧
    (∀ e ms, up.queue.active = some e → e.op ≠ .await .watch ms) := by
  refine ⟨rfl, rfl, by decide, by decide, ⟨3, by decide⟩, by decide, fun e ms h => ?_⟩
  rw [show up.queue.active = none by decide] at h; cases h

theorem test_witness_WatchEntryChanged :
    (scanning none).slots[(3 : Fin 8).val] = some watchEntry ∧ (scanning none).snapshot = none ∧
    ({ scanning none with snapshot := some readingsNone }).snapshot = some readingsNone := by decide

theorem test_witness_QueuePauseResumeFlush :
    up.Listening ∧ (∀ e ∈ up.queue.entries, e.state ≠ .active) ∧
    (let s := reading .nothing
     s.Listening ∧ s.queue.active = some (entry 5 readPort .active none) ∧
       (true = true ↔ ∃ el, s.engine.element = some el ∧ el.item = .entry)) :=
  ⟨test_up_listens, by decide, ⟨rfl, rfl, rfl⟩, by decide, by simp [reading, State.setCycle, State.setGroup,
    State.setBus, State.setArbiter, State.setEngine, element]⟩

theorem test_witness_QueueCancelByState :
    up.Listening ∧ (∀ e ∈ up.queue.entries, e.tag ≠ 5) ∧
    (∀ st : EntryState, (withEntries [entry 5 readPort st none]).Listening ∧
      (withEntries [entry 5 readPort st none]).queue.entries.find? (fun e => e.tag == 5) =
        some (entry 5 readPort st none)) ∧
    (entry 5 readPort .failed none).isFinished = true ∧
    (∃ el, (reading .nothing).engine.element = some el ∧ el.item = .entry) ∧
    (¬ ∃ el, up.engine.element = some el ∧ el.item = .entry) ∧ (∀ d, readPort ≠ .slotReset d) ∧
    (entry 5 (.slotReset 10) .active (some 10)).timer ≠ none ∧ (entry 5 readPort .active none).cancel = false ∧
    (let e := { entry 5 readPort .active none with cancel := true }
     (withEntries [e]).Listening ∧ (withEntries [e]).queue.entries.find? (fun e => e.tag == 5) = some e ∧
       e.state = .active ∧ e.cancel = true) := by
  refine ⟨test_up_listens, by decide, fun st => ⟨⟨rfl, rfl, rfl⟩, rfl⟩, rfl, ⟨element .nothing .card, rfl, rfl⟩, ?_,
    fun d => by simp [readPort], by decide, rfl, ⟨rfl, rfl, rfl⟩, rfl, rfl, rfl⟩
  rintro ⟨el, h, _⟩
  cases h

theorem test_witness_AdmissionRefusesInOrder :
    (Instr.delay 5 0 []).request? = some ⟨5, .delay 0, []⟩ ∧ HostRequest.wf ⟨5, .delay 0, []⟩ = true ∧
    (RequestBody.delay 0).queued = true ∧ up.Listening ∧ (∀ op, ¬ (RequestBody.delay 0).Asks [] op) ∧
    (RequestBody.delay 1000000).Asks [] (.delay 1000000) ∧
    (∃ e ∈ (withEntries [entry 5 readPort .done none]).queue.entries, e.tag = 5) ∧
    (let s := withEntries (List.replicate 32 (entry 6 readPort .queued none))
     (∀ e ∈ s.queue.entries, e.tag ≠ 5) ∧ 32 ≤ s.queue.entries.length) :=
  ⟨rfl, by decide, rfl, test_up_listens, fun op h => by cases op <;> simp [RequestBody.Asks] at h; omega,
    ⟨rfl, by decide, by decide, by decide⟩, ⟨entry 5 readPort .done none, by simp [withEntries, State.setQueue], rfl⟩,
    by simp [withEntries, State.setQueue, entry]⟩

/-- A card side at the last address of I/O space. -/
def lastPort : CardFields := ⟨1, 0x00FFFF, 1⟩

theorem test_witness_QueuedRequestsAreAppended :
    up.Listening ∧ up.queue.admits 0xFFFF ∧ (withEntries (List.replicate 31 (entry 6 readPort .queued none))).queue.admits 5 ∧
    (RequestBody.read lastPort).Asks [] (.read ⟨.io, 0xFFFF, .one⟩) ∧
    (RequestBody.write lastPort 0x00FF).Asks [] (.write ⟨.io, 0xFFFF, .one⟩ 0x00FF) ∧
    (RequestBody.modify lastPort 0x00FF 0).Asks [] (.modify ⟨.io, 0xFFFF, .one⟩ 0x00FF 0) ∧
    (RequestBody.transfer ⟨1, 1, 0x00FFFF, 2, 1, 2, 1, 0, 0⟩).Asks [1, 2]
      (.transfer .out ⟨.io, 0xFFFF, .one⟩ .fixed 2 (.inline [1, 2])) ∧
    (RequestBody.transfer ⟨0, 1, 0x00FFFF, 2, 1, 65536, 0, 0x0FFFFF, 1⟩).Asks []
      (.transfer .into ⟨.io, 0xFFFF, .one⟩ .fixed 65536 (.base 0xFFFFF .dec)) ∧
    (RequestBody.scan ⟨1, 0x00FFFF, 2, 1, 1, 9, 0, 0x00FF, 65535, 1, 0x0FFFFF⟩).Asks []
      (.scan ⟨.io, 0xFFFF, .one⟩ .fixed 1 .none 0 0x00FF 65535 (some 0xFFFFF)) ∧
    (RequestBody.compare ⟨1, 0x00FFFF, 2, 1, 0x0FFFFF, 0, 1, 0, 0x00FF⟩).Asks []
      (.compare ⟨.io, 0xFFFF, .one⟩ .fixed 0xFFFFF .inc 1 .eq 0x00FF) ∧
    (RequestBody.delay 1).Asks [] (.delay 1) ∧ (RequestBody.await 12 65535).Asks [] (.await .watch 65535) ∧
    (RequestBody.slotReset 10).Asks [] (.slotReset 10) := by
  have card : lastPort.Asks ⟨.io, 0xFFFF, .one⟩ := checkCardSide_some.mp (by decide)
  have inlineOut : (⟨1, 1, 0x00FFFF, 2, 1, 2, 1, 0, 0⟩ : TransferFields).Asks [1, 2]
      (.transfer .out ⟨.io, 0xFFFF, .one⟩ .fixed 2 (.inline [1, 2])) := admitTransfer_some.mp (by decide)
  have baseIn : (⟨0, 1, 0x00FFFF, 2, 1, 65536, 0, 0x0FFFFF, 1⟩ : TransferFields).Asks []
      (.transfer .into ⟨.io, 0xFFFF, .one⟩ .fixed 65536 (.base 0xFFFFF .dec)) := admitTransfer_some.mp (by decide)
  refine ⟨test_up_listens, ⟨by decide, by decide⟩, ⟨by simp [withEntries, State.setQueue, entry],
    by simp [withEntries, State.setQueue]⟩, ⟨rfl, card⟩, ⟨rfl, card, rfl, by simp [Width.Holds, Width.bytes]⟩,
    ⟨rfl, card, rfl, by simp [Width.Holds, Width.bytes], rfl, by simp [Width.Holds, Width.bytes]⟩,
    inlineOut, baseIn, ⟨rfl, admitScan_some.mp (by decide)⟩,
    ⟨rfl, admitCompare_some.mp (by decide)⟩, ⟨rfl, by decide⟩, ⟨rfl, by decide⟩, ⟨rfl, by decide⟩⟩

theorem test_witness_WaitsEndAtTheirExpiry :
    (∀ op, (withEntries [entry 5 op .active (some 9)]).queue.active = some (entry 5 op .active (some 9)) ∧
      (entry 5 op .active (some 9)).timer ≠ none) ∧
    up.queue.active = none ∧ (up.setEngineState (.action 7)).engine.state = .action 7 :=
  ⟨fun op => ⟨rfl, by simp [entry]⟩, by decide, rfl⟩

theorem test_witness_BoundaryOfAnEntry :
    (entry 5 readPort .active none).op = .read port ∧ (entry 5 (.write port 1) .active none).op = .write port 1 ∧
    (entry 5 (.modify port 1 1) .active none).op = .modify port 1 1 ∧
    (let e := entry 5 (.transfer .into port .inc 2 (.base 0 .inc)) .active none
     (e.progress.done + 1 ≠ 2 ∧ e.cancel = false) ∧ ({ e with progress := ⟨1, 0x302, 2⟩ }).progress.done + 1 = 2) ∧
    (let e := entry 5 (.scan port .inc 2 .eq 1 0xFFFF 9 none) .active none
     (e.boundary 1 0).result.matched = true ∧ (e.boundary 2 0).result.matched = false ∧
       (e.boundary 2 0).result.exhausted = false) ∧
    (let e := entry 5 (.compare port .inc 0 .inc 1 .ne 0xFFFF) .active none
     (e.boundary 1 1).result.matched = false ∧ (e.boundary 1 1).result.exhausted = true) := by decide

theorem test_witness_CycleLengthBySwait :
    let c := (element .nothing .card).group.cycle
    (c.clock = 1 ∧ c.held = false ∧ 2 ≤ c.programmed ∧ c.kind ≠ .refresh) ∧ (refreshCycle 0).kind = .refresh ∧
    ([false, false, false, true].length = c.programmed - 1 ∧ true ∈ [false, false, false, true]) ∧
    (∀ j, j < 124 → c.programmed + j ≤ 8 * c.readyTimeout) ∧ 8 * c.readyTimeout < c.programmed + 124 := by
  refine ⟨by decide, rfl, by decide, fun j h => ?_, by decide⟩
  change 5 + j ≤ 8 * 16
  omega

theorem test_witness_GroupsSplitByWidth :
    let g := (element .nothing .card).group
    (g.op = .read ∧ g.pos = .read1 ∧ g.width = .two ∧ g.attrs.width = .wide) ∧
    ({ g with width := .one }).width = .one ∧
    ({ g with attrs := { wide with width := .sense } }).attrs.width = .sense ∧
    ({ g with op := .write 1, pos := .write1 }).pos = .write1 ∧
    ({ g with op := .modify 1 1, width := .one }).op = .modify 1 1 := by decide

theorem test_witness_CycleEndOk :
    let s := reading .nothing
    let c := (element .nothing .card).group.cycle
    (s.bus.cycle = some c ∧ (c.kind = .memory ∨ c.kind = .io) ∧ c.needsUnit = false ∧
      Cycle.run (List.replicate 4 false) c = .ended ∧ s.sfault = false) ∧
    (s.bus.group = some (element .nothing .card).group ∧
      (element .nothing .card).group.next true 7 = .finished 7 0 ∧
      s.engine.element = some (element .nothing .card) ∧ s.watchClaims = false) ∧
    (reading (.store 2)).engine.element = some (element (.store 2) .card) ∧
    (reading (.fetch 2)).engine.element = some (element (.fetch 2) .card) ∧
    ({ (element .nothing .card).group with attrs := { wide with width := .narrow } }).next true 7 =
      .more { (element .nothing .card).group with
        attrs := { wide with width := .narrow }, pos := .read2, old := 7, isSplit := true } ∧
    ((watching (watchRead false)).watch.read = some (watchRead false) ∧
      (watching (watchRead false)).bus.group = some (watchRead false).group ∧
      (watching (watchRead false)).watch.stopping = false) := by decide

theorem test_witness_CycleFaultsEndTheGroup :
    let s := (reading .nothing).setSfault true
    let c := (element .nothing .card).group.cycle
    (s.bus.cycle = some c ∧ c.needsUnit = false ∧ s.bus.group = some (element .nothing .card).group ∧
      Cycle.run (List.replicate 4 false) c = .ended ∧ s.sfault = true ∧ s.watchClaims = false) ∧
    Cycle.run [false] c = .running { c with clock := 2 } ∧
    Cycle.run (List.replicate 129 true) c = .timedOut ∧
    (watching (watchRead false)).bus.cycle = some (watchRead false).group.cycle := by decide +kernel

theorem test_witness_CycleEndOfRefreshAndDma :
    (Cycle.run [true, true, true] (refreshCycle 0) = .ended ∧ (refreshCycle 0).needsUnit = false) ∧
    ((up.setArbiter (.granted .refresh)).arbiter = .granted .refresh ∧
      (up.setArbiter (.insertedRefresh 1)).arbiter = .insertedRefresh 1) ∧
    (let c := dmaCycle 1 enabled (block 0 2)
     c.kind = .dma 1 ∧ c.needsUnit = false ∧ Cycle.run [false, false, false] c = .ended) ∧
    ((withChannel enabled .moving (some (block 0 2)) none true).channel 1).current = some (block 0 2) ∧
    ((block 0 2).done + 1 ≠ (block 0 2).count ∧ (block 1 2).done + 1 = (block 1 2).count) := by decide

theorem test_witness_SfaultEdgesAreReported :
    (up.sfault = false ∧ up.link.resetting = false) ∧
    (partResetting.sfault = false ∧ partResetting.link.resetting = true) ∧ (up.setSfault true).sfault = true := by decide

theorem test_witness_MasterCyclesAreAnswered :
    (∀ n, up.arbiter = .granted (.channel n) → (up.channel n).state ≠ .master) ∧
    ((tenure none).arbiter = .granted (.channel 1) ∧ ((tenure none).channel 1).state = .master) ∧
    (∀ m, (tenure (strobed false)).bus.master = some m → m.strobe = false) ∧
    (lookup (tenure none).windows .memory 0x0A0000).owner ≠ .baseMemory ∧
    ((lookup (tenure none).windows .memory 0x09FFFF).owner = .baseMemory ∧
      (lookup (tenure none).windows .memory 0x09FFFF).writeProtect = false) ∧
    ((lookup lastByte .memory 0x0FFFFF).owner = .baseMemory ∧
      (lookup lastByte .memory 0x0FFFFF).writeProtect = true) := by
  refine ⟨fun n h => ?_, by decide, fun m h => ?_, by decide, by decide, by decide⟩
  · cases h
  · cases h; rfl

theorem test_witness_MasterStrobesAndHandback :
    up.bus.master = none ∧
    ((tenure (some ⟨.memory, 0x10, true, false, .writeIdle 0x10, false⟩)).bus.master =
      some ⟨.memory, 0x10, true, false, .writeIdle 0x10, false⟩) ∧
    (∀ a, (MasterAnswer.none) ≠ .writeIdle a) ∧ (tenure (strobed false)).bus.master = strobed false ∧
    (handback.arbiter = .handback 1 ∧ handback.bus.master.map MasterCycle.strobe = some true) ∧
    (∀ n, (tenure (strobed true)).arbiter ≠ .handback n) := by
  refine ⟨rfl, rfl, fun a => by simp, rfl, by decide, fun n h => by cases h⟩

theorem test_witness_GrantsFollowThePriority :
    (up.setRefresh ⟨15, some 15, true, 0, 0⟩).refresh.pending = true ∧
    (State.reset.refresh.pending = false ∧ State.reset.sreset ≠ .released) ∧
    (up.refresh.pending = false ∧ up.sreset = .released ∧ ∀ n, (up.channel n).claims = false) ∧
    (let s := withChannel enabled .ready (some (block 0 2)) none true
     (s.channel 1).claims = true ∧ ∀ m, m < 1 → (s.channel m).claims = false) ∧
    ((reading .nothing).setGroup none).engineClaims = true ∧ up.engineClaims = false ∧
    (up.setWatch (scanning (some (watchRead false)))).watchClaims = true ∧ up.watchClaims = false := by decide

theorem test_witness_PostingsAppendOrMerge :
    (∀ n ∈ up.notices, n.source ≠ .check) ∧
    noticesOk ([⟨.check, 65535, .check ⟨.io, 0, .none⟩⟩] ++ ⟨.refresh, 65535, .refresh 1⟩ :: []) :=
  ⟨by decide, by unfold noticesOk; decide⟩

theorem test_witness_StepKeepsMemoryCanonical :
    memoryOk (turn (.dmaStore 1) .two (.write 0x0201)) ∧
    step ((turn (.dmaStore 1) .two (.write 0x0201)).setPending [.memoryTurnEnd]) =
      exec .memoryTurnEnd (turn (.dmaStore 1) .two (.write 0x0201)) := ⟨rfl, rfl⟩

theorem test_witness_StepKeepsTheTables :
    windowsOk up.windows ∧ queueOk (withEntries [entry 5 readPort .active none, entry 6 readPort .queued none]).queue ∧
    noticesOk [⟨.check, 1, .check ⟨.io, 0, .none⟩⟩, ⟨.refresh, 1, .refresh 1⟩] :=
  ⟨windowsOk_initial, ⟨by decide, by decide⟩, by unfold noticesOk; decide⟩

theorem test_witness_StepKeepsActiveAndBlocks :
    activeOk (withEntries [entry 5 readPort .done none, entry 6 readPort .active none]).queue ∧
    channelsOk (withChannel enabled .ready (some (block 1 2)) (some (block 0 2)) true) := by
  refine ⟨⟨by simp [withEntries, State.setQueue, entry, Entry.isFinished], by decide⟩, fun n => ?_⟩
  by_cases h : n = 1
  · subst h
    refine ⟨by decide, fun b hb => ?_, fun b hb => ?_⟩ <;> cases hb <;> (unfold Block.ok; decide)
  · have e : (withChannel enabled .ready (some (block 1 2)) (some (block 0 2)) true).channel n = Channel.initial false := by
      revert n; decide
    rw [e]
    exact ⟨by decide, fun b hb => (by cases hb), fun b hb => (by cases hb)⟩

/-! ## Choices that an event inside the step brings about -/

/-- Entry 5 awaits the watch unit, entry 6 waits behind it. -/
def awaiting (src : AwaitSource) (behind : Op) : State :=
  withEntries [entry 5 (.await src 3) .active (some 3), entry 6 behind .queued none]

/-- The pass has read its last entry: it completes as the blocks settle. -/
def passEnding : State := (awaiting .watch (.delay 7)).setWatch { scanning none with next := 4 }

theorem test_await_of_a_pass_lets_the_entry_behind_begin :
    (after .handbackTimeout passEnding).queue.entries = [entry 6 (.delay 7) .active (some 7)] := by decide

/-- Channel 1 in the last element of a block, another staged behind it, in BLOCK mode. -/
def lastOfTwo : State :=
  (((awaiting (.channel 1) (.slotReset 10)).setChannel 1 { Channel.initial true with
    config := { enabled with mode := .block }, state := .moving, current := some (block 1 2), staged := some (block 0 2)
    }).setArbiter (.granted (.channel 1))).setCycle (some (dmaCycle 1 enabled (block 1 2)))

theorem test_slot_reset_behind_an_await_ends_the_tenure :
    let t := after (.cycleEnd [false, false, false] false 0) lastOfTwo
    t.sreset = .slotReset ∧ t.arbiter = .idle ∧ t.bus.cycle = none ∧ (t.channel 1).state = .ready ∧
      (t.channel 1).stopped = false := by decide

/-- A SlotReset in progress, a LEVEL line IDLE with SINT asserted. -/
def levelInReset (action : Option Op) : State :=
  ((withLine .interrupt .level .hold action .idle true).setSreset .slotReset).setQueue
    ⟨[entry 5 (.slotReset 10) .active (some 10)], false, false⟩

theorem test_link_reset_gives_a_waiting_level_line_one_event :
    let t := after .linkReset (levelInReset none)
    (t.line 2).state = .inService ∧ (t.line 2).edges = 0 ∧
      t.notices = [⟨.line 2, 1, .line ⟨2, 1, .none, none, false⟩⟩] := by decide +kernel

/-! ## Witnesses of the wider statements -/

theorem test_witness_Settling_choice :
    up.engineChoice = none ∧ (awaiting .watch (.delay 7)).engineChoice = none ∧
    (withEntries [entry 6 (.delay 7) .queued none]).engineChoice ≠ none ∧
    (reading .nothing).engine.element = some (element .nothing .card) ∧
    (let s := (withLine .interrupt .edge .hold (some readPort) .acting false).setEngine ⟨.action 2, none⟩
     s.engine = ⟨.action 2, none⟩ ∧ (s.line 2).interval = none ∧ (s.line 2).action = some readPort) ∧
    (let s := (up.setLine 7 { Line.initial false with interval := some 9 }).setEngine ⟨.action 7, none⟩
     s.engine = ⟨.action 7, none⟩ ∧ (s.line 7).interval ≠ none) := by decide

theorem test_witness_Settling_order :
    (let s := withLine .interrupt .edge .hold (some readPort) .pending false
     s.engine = ⟨.idle, none⟩ ∧ (s.line 2).state = .pending ∧ (s.line 2).action = some readPort ∧
       ∀ m : Fin 8, m < 2 → (s.line m).state = .pending → (s.line m).action = none) ∧
    (let s := (withEntries [entry 5 readPort .active none]).setEngineState .entry
     s.engine = ⟨.entry, none⟩ ∧ (∀ m : Fin 8, (s.line m).state = .pending → (s.line m).action = none) ∧
       s.queue.active = some (entry 5 readPort .active none) ∧ readPort.cardSide ≠ none ∧ s.queue.paused = false) ∧
    (entry 5 (.delay 9) .active (some 9)).timer ≠ none ∧
    (withEntries [entry 5 readPort .active none]).queue.paused = false ∧ (Op.delay 9).cardSide = none ∧
    (let s := withEntries ([entry 4 readPort .done none] ++ entry 5 (.slotReset 10) .queued none ::
       [entry 6 readPort .queued none])
     s.queue.active = none ∧ s.queue.paused = false ∧ s.queue.halted = false ∧
       (∀ x ∈ [entry 4 readPort .done none], x.state ≠ .queued) ∧ (entry 5 (.slotReset 10) .queued none).state = .queued) ∧
    up.queue.active = none ∧ (∀ e ∈ up.queue.entries, e.state ≠ .queued) := by decide

theorem test_witness_Settling_elements :
    planElement up.windows .entry (.queue 5) (.read ⟨.memory, 0xFFFFFF, .one⟩) ⟨0, 0xFFFFFF, 0⟩ =
      some (.start ⟨.entry, .queue 5, .memory, 0xFFFFFF, .one, Attrs.default, .read, .nothing, .card, 0⟩) ∧
    (planElement up.windows .entry (.queue 5) (.transfer .out port .inc 2 (.base 0 .inc)) ⟨0, 0x300, 0⟩).map
      (fun p => match p with | .start e => some e.stage | .refuse _ => none) = some (some (.memoryFirst 0)) ∧
    (planElement up.windows .entry (.queue 5) (.read ⟨.memory, 0x09FFFF, .one⟩) ⟨0, 0x09FFFF, 0⟩).map
      (fun p => match p with | .start e => some (e.stage, e.attrs.owner) | .refuse _ => none) =
        some (some (.card, .baseMemory)) ∧
    planElement up.windows (.line 2) (.line 2) (.transfer .into port .inc 2 (.base 0 .dec)) ⟨1, 0x302, -2⟩ =
      some (.refuse ⟨.range, some (.memory, -2), false⟩) := by decide

theorem test_witness_Settling_sreset :
    ((withChannel enabled .moving (some (block 0 2)) none true).channel 1).state = .moving ∧
    ((withChannel cascade .waiting none none true).channel 1).state = .waiting ∧
    ((withChannel cascade .heldOff none none true).channel 1).state = .heldOff ∧
    ((tenure (strobed true)).channel 1).state = .master ∧ (up.channel 3).state = .off ∧
    up.watch.state ≠ .scanning ∧ (watching (watchRead false)).watch.state = .scanning ∧
    (watching (watchRead false)).watchReadRunning = true ∧
    (up.setWatch (scanning (some (watchRead false)))).watchReadRunning = false := by decide

theorem test_witness_StartUpRelease_level_rule :
    (let s := withLine .interrupt .level .hold (some readPort) .idle true
     let l := s.line 2
     l.role = .interrupt ∧ l.mode = .level ∧ l.state = .idle ∧ l.level = true ∧ s.sreset = .released ∧ l.action ≠ none) ∧
    (let s := withLine .interrupt .level .hold none .idle true
     let l := s.line 2
     l.role = .interrupt ∧ l.mode = .level ∧ l.state = .idle ∧ l.level = true ∧ s.sreset = .released ∧ l.action = none) ∧
    (let s := levelInReset none
     (s.line 2).level = true ∧ s.sreset ≠ .released) := by decide

theorem test_witness_LinkReset_lines :
    (let s := levelInReset none
     s.link.state = .configured ∧ (s.line 2).resetEvent s.sreset = true ∧ (s.line 2).action = none) ∧
    (let s := levelInReset (some readPort)
     (s.line 2).resetEvent s.sreset = true ∧ (s.line 2).action ≠ none) ∧
    (let s := withLine .interrupt .level .hold none .inService true
     (s.line 2).resetEvent s.sreset = true ∧ (s.line 2).resetEvent .powerOn = false) ∧
    (let s := withLine .interrupt .level .hold none .faulted false
     (s.line 2).resetEvent s.sreset = false ∧ (s.line 2).state = .faulted) ∧
    (let s := withLine .interrupt .level .hold none .idle true
     (s.line 2).resetEvent s.sreset = false ∧ (s.line 2).state ≠ .inService ∧ (s.line 2).state ≠ .faulted) := by decide

theorem test_witness_LinkReset_blocks :
    ((reading .nothing).link.state = .configured ∧
      (reading .nothing).engine.element.map (fun e => e.item) = some .entry) ∧
    ((tenure (strobed true)).link.state = .configured ∧ ((tenure (strobed true)).channel 1).state = .master) ∧
    ((tenure (strobed false)).bus.master = strobed false ∧ (strobed false).map MasterCycle.strobe = some false) ∧
    (∀ n, (up.channel n).state ≠ .master) ∧
    ((withChannel cascade .waiting none none true).channel 1).state = .waiting ∧
    ((withChannel enabled .faulted (some (block 0 2)) none false).channel 1).state = .faulted ∧
    ((watching (watchRead false)).link.state = .configured ∧ (watching (watchRead false)).watchReadRunning = true) := by
  decide

theorem test_witness_ReportPipe_drains :
    (held.link.state = .configured ∧ held.link.report = .free ∧ held.link.slot = .ready ⟨0x81, .ok, 1, .identify⟩) ∧
    (up.link.state = .configured ∧ up.link.report = .free ∧ up.link.slot = .empty ∧ up.link.pipe = []) ∧
    (up.setLink { up.link with report := .sending (.reply ⟨0x81, .ok, 1, .identify⟩) }).link.report =
      .sending (.reply ⟨0x81, .ok, 1, .identify⟩) ∧
    State.reset.link.state = .detached ∧ held.link.slot ≠ .empty ∧
    (Instr.statusGet 4 []).request? = some ⟨4, .statusGet, []⟩ := by decide

theorem test_witness_Checks_memory_side :
    ((-1 : Int) < 0 ∧ (0xFFFFF : Int) < (0xFFFFF : Int) + (Width.two.bytes : Int) - 1) ∧
    ((0 : Int) ≤ 0xFFFFE ∧ (0xFFFFE : Int) + (Width.two.bytes : Int) - 1 ≤ 0xFFFFF) ∧
    ((0 : Int) ≤ 0xFFFFF ∧ (0xFFFFF : Int) + (Width.one.bytes : Int) - 1 ≤ 0xFFFFF) ∧
    checkMemory lastByte true .one 0xFFFFF = some ⟨.writeProtected, some (.memory, 0xFFFFF), false⟩ ∧
    checkMemory lastByte false .one 0xFFFFF = none := by decide

theorem test_witness_MemoryTurnEnd_stages :
    (let s := turn .engine .two .read
     s.port.turn = some ⟨.engine, 0x10, .two, .read⟩ ∧ s.port.watch = none ∧
       (s.setPort { s.port with watch := some ⟨.watch, 0x20, .one, .read⟩ }).port.watch ≠ none) ∧
    (let s := (turn .watch .two .read).setWatch (scanning (some (watchRead true)))
     s.watch.read = some (watchRead true) ∧ s.watch.stopping = false ∧ (watchRead true).discard = true) ∧
    (let s := ((turn .watch .two .read).setWatch { scanning (some (watchRead false)) with stopping := true }).setSlot
       (.working .watchStop 0x3A 1)
     s.watch.read = some (watchRead false) ∧ s.watch.stopping = true ∧ s.link.slot = .working .watchStop 0x3A 1) ∧
    ((element .nothing (.memoryFirst 0x10)).stage = .memoryFirst 0x10 ∧
      (element .nothing (.memoryFirst 0x10)).attrs.owner ≠ .baseMemory) ∧
    ({ element .nothing (.memoryFirst 0) with attrs := Window.initial.attrs }).attrs.owner = .baseMemory ∧
    (reading (.store 2)).engine.element = some (element (.store 2) .card) ∧
    (element (.fetch 2) .memoryLast).stage = .memoryLast ∧
    (let j : LinkJob := ⟨.write [1, 2, 3], 0x100, 0x103⟩
     j.work = .write (1 :: 2 :: [3]) ∧ j.width = .two) ∧
    (let j : LinkJob := ⟨.write [1, 2], 0x101, 0x103⟩
     j.work = .write (1 :: [2]) ∧ j.width = .one) ∧
    (⟨.fill 0x5A, 0xFFFFF, 0x100000⟩ : LinkJob).work = .fill 0x5A := by decide

theorem test_witness_TerminalCount_goes_on :
    (let c := lastOfTwo.channel 1
     c.staged = some (block 0 2) ∧ c.config.mode = .block ∧ c.quiescing = false ∧ c.stopped = false) ∧
    (lastOfTwo.terminalCount 1 (block 2 2)).queue.entries.map Entry.state = [.done, .queued] := by decide

theorem test_witness_Sreq_levels :
    (let s := withChannel enabled .idle none none true
     (s.channel 1).state = .idle ∧ (s.channel 1).sreq = true ∧ (s.channel 1).config.mode ≠ .cascade) ∧
    (let s := withChannel cascade .idle none none true
     (s.channel 1).state = .idle ∧ (s.channel 1).sreq = true ∧ (s.channel 1).config.mode = .cascade ∧
       s.sreset = .released ∧ (s.setSreset .slotReset).sreset ≠ .released) ∧
    ((up.channel 1).state ≠ .idle ∧ (up.channel 1).sreq = false) := by decide

theorem test_witness_WatchStart_reads :
    (let s := up.setWatch (scanning none)
     s.watch.state = .scanning ∧ s.watch.read = none ∧ s.sreset = .released ∧
       s.watch.slots[(3 : Fin 8).val] = some watchEntry ∧ s.watch.next ≤ (3 : Fin 8).val ∧
       ∀ j : Fin 8, j < 3 → s.watch.next ≤ j.val → s.watch.slots[j.val] = none) ∧
    (passEnding.watch.state = .scanning ∧ passEnding.watch.read = none ∧
      ∀ j : Fin 8, passEnding.watch.next ≤ j.val → passEnding.watch.slots[j.val] = none) ∧
    up.watch.state ≠ .scanning ∧
    checkElement (lookup up.windows .io 0x300) false 0x300 .two = none ∧
    ((lookup up.windows .io 0x300).owner ≠ .baseMemory ∧ (lookup up.windows .memory 0).owner = .baseMemory) ∧
    checkElement ⟨.blocked, .wide, 0, 16, false⟩ false 0x300 .two = some .windowBlocked := by decide

theorem test_witness_Waits_deliver :
    (awaiting .watch (.delay 7)).queue.active = some (entry 5 (.await .watch 3) .active (some 3)) ∧
    (∀ e ms, (awaiting .watch (.delay 7)).queue.active = some e → e.op ≠ .await (.line 2) ms) := by
  refine ⟨by decide, fun e ms h => ?_⟩
  rw [show (awaiting .watch (.delay 7)).queue.active = some (entry 5 (.await .watch 3) .active (some 3)) by decide] at h
  cases h
  simp [entry]

theorem test_witness_Boundary_cancelled :
    (let e := { entry 5 (.scan port .inc 2 .eq 1 0xFFFF 9 none) .active none with cancel := true }
     e.cancel = true ∧ (e.boundary 2 0).state = .cancelled ∧ (e.boundary 1 0).state = .done) ∧
    (let e := { entry 5 (.compare port .inc 0 .inc 2 .ne 0xFFFF) .active none with cancel := true }
     (e.boundary 1 1).state = .cancelled) ∧
    (let e := { entry 5 (.transfer .into port .inc 2 (.inline [])) .active none with cancel := true }
     (e.boundary 0x0201 0).state = .cancelled ∧ (e.boundary 0x0201 0).result.data = [1, 2]) ∧
    ((entry 5 (.compare port .inc 0 .inc 2 .ne 0xFFFF) .active none).boundary 1 1).state = .active := by decide

theorem test_witness_Boundary_items :
    (element .nothing .card).item = .entry ∧ ({ element .nothing .card with item := .orphan }).item = .orphan ∧
    (let s := withLine .interrupt .edge .hold (some readPort) .acting false
     ({ element .nothing .card with item := .line 2 }).item = .line 2 ∧ (s.line 2).action = some readPort ∧
       (Entry.boundary ⟨0, readPort, .active, false, (s.line 2).progress, (s.line 2).result, none, none⟩ 7 0).state ≠
         .active) ∧
    (let op : Op := .scan port .inc 2 .eq 1 0xFFFF 9 none
     let s := withLine .interrupt .edge .auto (some op) .acting false
     (s.line 2).action = some op ∧
       (Entry.boundary ⟨0, op, .active, false, (s.line 2).progress, (s.line 2).result, none, none⟩ 7 0).state = .active) :=
  by decide

theorem test_witness_Groups_writes :
    let g := (element .nothing .card).group
    let w := { g with op := .write 0xBEEF, pos := .write1 }
    (w.op = .write 0xBEEF ∧ w.pos = .write1 ∧ ({ w with width := .one }).width = .one) ∧
    (w.attrs.width = .wide ∧ ({ w with attrs := { wide with width := .narrow } }).attrs.width = .narrow) ∧
    (let n := { w with attrs := { wide with width := .sense } }
     n.attrs.width = .sense ∧ n.next true 0 = .finished 0 0 ∧ n.next false 0 ≠ .finished 0 0) ∧
    (let m := { g with op := .modify 0xFF00 1 }
     m.op = .modify 0xFF00 1 ∧ m.pos = .read1 ∧ m.width = .two ∧ m.attrs.width = .wide) ∧
    (g.pos = .read1 ∧ w.pos = .write1) := by decide

theorem test_witness_Groups_lines :
    up.bus.cycle = none ∧ up.bus.master = none ∧ (reading .nothing).bus.cycle = some (element .nothing .card).group.cycle ∧
    (tenure (some ⟨.memory, 0x10, false, true, .readServed 7, true⟩)).bus.master =
      some ⟨.memory, 0x10, false, true, .readServed 7, true⟩ := by decide

theorem test_witness_CycleEnds_items :
    (let s := (reading .nothing).setWatch (scanning (some (watchRead false)))
     s.watchClaims = true ∧ s.engine.element = some (element .nothing .card)) ∧
    (let s := watching (watchRead true)
     s.watch.read = some (watchRead true) ∧ s.watch.stopping = false ∧ (watchRead true).discard = true) ∧
    (let s := ((watching (watchRead false)).setWatch { scanning (some (watchRead false)) with stopping := true }).setSlot
       (.working .watchStop 0x3A 1)
     s.watch.read = some (watchRead false) ∧ s.watch.stopping = true ∧ s.link.slot = .working .watchStop 0x3A 1) ∧
    (∀ k tag, up.link.slot ≠ .working .watchStop k tag) := by
  refine ⟨by decide, by decide, by decide, fun k tag => by simp [up]⟩

theorem test_witness_CycleFaults_dma :
    (let s := lastOfTwo.setSfault true
     let c := dmaCycle 1 enabled (block 1 2)
     s.bus.cycle = some c ∧ c.needsUnit = false ∧ c.kind = .dma 1 ∧ (s.channel 1).current = some (block 1 2) ∧
       Cycle.run [false, false, false] c = .ended ∧ s.sfault = true) ∧
    Cycle.run (List.replicate 129 true) (dmaCycle 1 enabled (block 1 2)) = .timedOut ∧
    (let g := { (element .nothing .card).group with op := .modify 1 1 }
     g.op = .modify 1 1 ∧ ({ g with readDone := true }).readDone = true ∧ g.readDone = false) := by decide +kernel

theorem test_witness_DmaBoundary :
    enabled.mode = .single ∧ (lastOfTwo.channel 1).config.mode ≠ .single ∧
    (let c := (lastOfTwo.setChannel 1 { lastOfTwo.channel 1 with stopped := true }).channel 1; c.stopped = true) ∧
    ((lastOfTwo.channel 1).quiescing = false ∧ (lastOfTwo.channel 1).stopped = false) ∧
    (let c := (withChannel { enabled with mode := .demand } .moving (some (block 0 2)) none false).channel 1
     c.config.mode = .demand ∧ c.sreq = false) ∧
    ((lastOfTwo.setRefresh ⟨15, some 15, true, 0, 0⟩).refresh.pending = true ∧ lastOfTwo.refresh.pending = false) ∧
    (∀ d ∈ claimants, d ≠ .channel 1 → lastOfTwo.claims d = false) ∧
    ((lastOfTwo.setRefresh ⟨15, some 15, true, 0, 0⟩).claims .refresh = true) := by decide

theorem test_witness_DmaTenure_ends :
    (let s := (lastOfTwo.setChannel 1 { lastOfTwo.channel 1 with quiescing := true }).setSlot (.working (.quiesce 1) 0x2A 1)
     (s.channel 1).quiescing = true ∧ s.link.slot = .working (.quiesce 1) 0x2A 1) ∧
    (∀ k tag, lastOfTwo.link.slot ≠ .working (.quiesce 1) k tag) ∧ (up.channel 1).current = none ∧
    (dmaRefusal up.windows enabled (block 0 2) = none ∧ enabled.direction ≠ .memoryToCard ∧
      ({ enabled with direction := .memoryToCard }).direction = .memoryToCard) ∧
    dmaRefusal up.windows enabled ⟨-1, 2, .dec, 0, 0⟩ = some .dmaAddress := by
  refine ⟨by decide, fun k tag => ?_, by decide, by decide, by decide⟩
  simp [lastOfTwo, awaiting, withEntries, up, State.setChannel, State.setChannels, State.setArbiter, State.setCycle,
    State.setBus, State.setQueue]

theorem test_witness_Grants :
    up.arbiter = .idle ∧ (reading .nothing).arbiter ≠ .idle ∧ up.bestClaim none = none ∧
    ((up.setRefresh ⟨15, some 15, true, 0, 0⟩).bestClaim none = some .refresh) ∧
    (let s := withChannel enabled .ready (some (block 0 2)) none true
     s.bestClaim none = some (.channel 1) ∧ s.bestClaim (some (.channel 1)) = none) ∧
    (let s := withChannel cascade .waiting none none true
     (s.channel 1).config.mode = .cascade ∧ (s.channel 1).sreq = true) ∧
    ((withChannel cascade .waiting none none false).channel 1).sreq = false ∧
    (reading .nothing).engine.element = some (element .nothing .card) ∧
    (up.setWatch (scanning (some (watchRead false)))).watch.read = some (watchRead false) := by decide

theorem test_witness_ReportPipe_statuses :
    (entry 5 readPort .done none).state = .done ∧
    (let e := { entry 5 readPort .failed none with fail := some ⟨.readyTimeout, some (.io, 0x300), false⟩ }
     e.state = .failed ∧ e.fail = some ⟨.readyTimeout, some (.io, 0x300), false⟩ ∧ statusByte e.status = 0x12) ∧
    (entry 5 readPort .cancelled none).state = .cancelled ∧ (entry 5 readPort .flushed none).state = .flushed := by decide

theorem test_witness_StatusGet_sub_states :
    (let e := entry 5 (.await .watch 3) .active (some 3)
     e.op = .await .watch 3 ∧ up.subState e = .waitEvent) ∧
    (let e := entry 5 (.slotReset 10) .active (some 10)
     e.op = .slotReset 10 ∧ up.subState e = .waitTime) ∧
    (let e := entry 5 (.scan port .inc 2 .eq 1 0xFFFF 9 none) .active (some 9)
     e.timer ≠ none ∧ (∀ src ms, e.op ≠ .await src ms) ∧ (∀ d, e.op ≠ .delay d ∧ e.op ≠ .slotReset d)) ∧
    (let s := reading .nothing
     (entry 5 readPort .active none).timer = none ∧ s.engine.element = some (element .nothing .card) ∧
       (element .nothing .card).item = .entry ∧ s.bus.group.map Group.user = some .engine) ∧
    (let s := (turn .engine .two .read).setEngine ⟨.entry, some (element .nothing .card)⟩
     s.engine.element = some (element .nothing .card) ∧ s.port.turn.map MemUnit.requester = some .engine) ∧
    ¬ ∃ el, up.engine.element = some el ∧ el.item = .entry := by
  refine ⟨by decide, by decide, ⟨by decide, fun src ms => by simp [entry], fun d => by simp [entry]⟩, by decide,
    by decide, ?_⟩
  rintro ⟨el, h, _⟩
  cases h

theorem test_witness_Strobes_dropped_store :
    handback.port.turn = some ⟨.masterStore, 0x10, .one, .write 0x00EF⟩ ∧
    handback.port.dropMasterStore.turn = some ⟨.orphan, 0x10, .one, .read⟩ ∧
    (let u : MemUnit := ⟨.dmaStore 2, 0x20, .two, .write 7⟩
     ({ Port.initial with bus := [⟨.masterStore, 0x10, .one, .write 1⟩, u] }).dropMasterStore.bus = [u]) := by decide

theorem test_witness_WatchStart_running :
    ((watching (watchRead false)).bus.group.map Group.user = some .watch) ∧
    ((turn .watch .two .read).port.turn.map MemUnit.requester = some .watch ∧
      (turn .watch .two .read).watchReadRunning = true) ∧
    (up.bus.group = none ∧ up.port.turn = none ∧ up.watchReadRunning = false) ∧
    ((up.setWatch (scanning (some (watchRead false)))).watch.read ≠ none ∧
      ((up.setWatch (scanning none)).setSreset .slotReset).sreset ≠ .released) := by decide

end Sys2Proof.Tests
end

/-! ## What a command comes to -/
section
namespace Sys2Proof.Machine

theorem next_settle_congr {t u : State} (h : t = u) :
    (Host.Outcome.next t.settle : Host.Outcome State Fault Refusal) = .next u.settle := by rw [h]

/-- What an event comes to: most events keep the records that `Keeps` names and then let the blocks or the link settle;
the others have an effect of their own. -/
inductive EventOutcome (s : State) : Instr → State → Prop where
  | kept {c : Instr} {u : State} (h : Keeps s u) : EventOutcome s c u
  | linkSettled {c : Instr} {u : State} (h : Keeps s u) : EventOutcome s c u.settleLink
  | settled {c : Instr} {u : State} (h : Keeps s u) : EventOutcome s c u.settle
  | partResetEnd : EventOutcome s .partResetEnd s.partResetEnd.settle
  | refusedAtFraming (l : List Byte) : EventOutcome s (.requestRefusedAtFraming l) (s.arrive (frame l))
  | reportComplete : EventOutcome s .reportTransferComplete s.reportComplete
  | linkReset : EventOutcome s .linkReset s.linkReset
  | linkConfigured : EventOutcome s .linkConfigured s.linkConfigured
  | powerOn (sfault : Bool) (sint : BitVec 8) (sreq : BitVec 4) :
    EventOutcome s (.powerOn sfault sint sreq) (State.powerOn s.pending s.free s.mem sfault sint sreq)
  | startUpFillDone : EventOutcome s .startUpFillDone s.startUpFillDone
  | memoryTurnEnd : EventOutcome s .memoryTurnEnd s.memoryTurnEnd.settle

/-- A command that is no request has one of the outcomes of an event. -/
theorem exec_event {c : Instr} (hr : c.request? = none) (s : State) :
    ∃ t, exec c s = .next t ∧ EventOutcome s c t := by
  cases c with
  | partResetEnd => exact ⟨_, rfl, .partResetEnd⟩
  | requestRefusedAtFraming l => exact ⟨_, rfl, .refusedAtFraming l⟩
  | reportTransferComplete => exact ⟨_, rfl, .reportComplete⟩
  | linkReset => exact ⟨_, rfl, .linkReset⟩
  | linkConfigured => exact ⟨_, rfl, .linkConfigured⟩
  | powerOn a b d => exact ⟨_, rfl, .powerOn a b d⟩
  | startUpFillDone => exact ⟨_, rfl, .startUpFillDone⟩
  | memoryTurnEnd => exact ⟨_, rfl, .memoryTurnEnd⟩
  | powerOnSresetEnd => exact ⟨_, rfl, .settled (Keeps.refl s).powerOnSresetEnd⟩
  | cycleEnd l w d => exact ⟨_, rfl, .settled ((Keeps.refl s).cycleEnd l w d)⟩
  | readyTimeoutExpiry l => exact ⟨_, rfl, .settled ((Keeps.refl s).readyTimeout l)⟩
  | sfaultRise => exact ⟨_, rfl, .linkSettled (Keeps.refl s).sfaultRise⟩
  | masterCycleAddressPhase sp a x y => exact ⟨_, rfl, .settled ((Keeps.refl s).masterAddressPhase sp a.toNat x y)⟩
  | masterStrobeRelease => exact ⟨_, rfl, .settled (Keeps.refl s).masterStrobeRelease⟩
  | handbackTimeout => exact ⟨_, rfl, .settled (Keeps.refl s).handbackTimeout⟩
  | refreshTimerExpiry => exact ⟨_, rfl, .settled (Keeps.refl s).refreshExpiry⟩
  | delayExpiry => exact ⟨_, rfl, .settled (Keeps.refl s).delayExpiry⟩
  | awaitTimeout => exact ⟨_, rfl, .settled (Keeps.refl s).awaitTimeout⟩
  | scanIntervalExpiry w => exact ⟨_, rfl, .settled ((Keeps.refl s).scanIntervalExpiry w)⟩
  | slotResetExpiry => exact ⟨_, rfl, .settled (Keeps.refl s).slotResetExpiry⟩
  | sreqAssert n => exact ⟨_, rfl, .settled ((Keeps.refl s).sreqAssert n)⟩
  | sreqDeassert n => exact ⟨_, rfl, .settled ((Keeps.refl s).sreqDeassert n)⟩
  | cascadeTenureExpiry n => exact ⟨_, rfl, .settled ((Keeps.refl s).tenureExpiry n)⟩
  | sintRise n => exact ⟨_, rfl, .settled ((Keeps.refl s).sintRise n)⟩
  | watchRestExpiry => exact ⟨_, rfl, .settled (Keeps.refl s).watchRestExpiry⟩
  | sfaultFall => exact ⟨_, rfl, .kept (Keeps.refl s).sfaultFall⟩
  | sintFall n => exact ⟨_, rfl, .kept ((Keeps.refl s).sintFall n)⟩
  | masterStrobeAssert d => exact ⟨_, rfl, .settled ((Keeps.refl s).masterStrobeAssert d)⟩
  | _ => simp [Instr.request?] at hr

/-- Power-on gives every block its initial records, which keep each promise of their own; base memory stays. -/
theorem Promises.powerOn (s : State) (sfault : Bool) (sint : BitVec 8) (sreq : BitVec 4) :
    Promises s (State.powerOn s.pending s.free s.mem sfault sint sreq) where
  pending := rfl
  windows _ := windowsOk_initial
  mem k := k
  queue _ := ⟨Nat.zero_le _, List.nodup_nil⟩
  active _ := ⟨.nil, fun h => absurd h Bool.false_ne_true⟩
  notices _ := List.nodup_nil
  channels _ n := by
    simp only [State.channel, State.powerOn, Vector.getElem_ofFn]
    exact Channel.Ok.empty rfl rfl

/-- A command keeps each promise: a request by its taking, an event by each of its outcomes. -/
theorem Promises.exec {c : Instr} {s t : State} (h : exec c s = .next t) : Promises s t := by
  cases hr : c.request? with
  | some r =>
    obtain rfl := Host.Outcome.next.inj ((exec_request hr s).symm.trans h)
    exact (Promises.refl s).arrive _
  | none =>
    obtain ⟨u, hu, outcome⟩ := exec_event hr s
    obtain rfl := Host.Outcome.next.inj (hu.symm.trans h)
    cases outcome with
    | kept k => exact k.promises
    | linkSettled k => exact k.promises.settleLink
    | settled k => exact k.promises.settle
    | partResetEnd => exact (Promises.partResetEnd s).settle
    | refusedAtFraming l => exact (Promises.refl s).arrive _
    | reportComplete => exact ((Promises.refl s).setLink _).settleLink
    | linkReset => exact Promises.linkReset s
    | linkConfigured => exact Promises.linkConfigured s
    | powerOn a b d => exact Promises.powerOn s a b d
    | startUpFillDone => exact Promises.startUpFillDone s
    | memoryTurnEnd => exact (Promises.memoryTurnEnd s).settle

/-- A step keeps each promise; of the commands that wait it takes the front one. -/
theorem Promises.step {s t : State} (h : step s = .next t) : Promises (s.setPending s.pending.tail) t := by
  unfold Machine.step at h
  cases hp : s.pending with
  | nil =>
    rw [hp] at h
    obtain rfl := Host.Outcome.next.inj h
    have hs : s.setPending [] = s := by cases s; simp_all [State.setPending]
    exact hs ▸ (Promises.refl s).settle
  | cons c rest =>
    rw [hp] at h
    exact Promises.exec h

/-- Settles O59: the promises of the three tables are among those that every step keeps (`Promises.step`). -/
theorem stepKeepsTheTables : Obligations.StepKeepsTheTables := by
  intro s t h
  have k := Promises.step h
  exact ⟨k.windows, k.queue, k.notices⟩

end Sys2Proof.Machine
end

/-! ## The window table -/
section
namespace Sys2Proof.Machine

variable {s t : State}

/-! ### The lookup (R15) -/

theorem Window.matches_iff (w : Window) (sp : Space) (a : Nat) :
    w.matches sp a = true ↔ w.space = sp ∧ w.base ≤ a ∧ a ≤ w.limit := by
  simp [Window.matches, and_assoc]

/-- Two entries that hold the same address overlap. -/
theorem Window.overlaps_of_matches {v w : Window} {sp : Space} {a : Nat} (hv : v.matches sp a = true)
    (hw : w.matches sp a = true) : v.overlaps w = true := by
  obtain ⟨hvs, hvb, hvl⟩ := (v.matches_iff sp a).mp hv
  obtain ⟨hws, hwb, hwl⟩ := (w.matches_iff sp a).mp hw
  simp only [Window.overlaps, Bool.and_eq_true, decide_eq_true_eq]
  exact ⟨⟨hvs.trans hws.symm, hvb.trans hwl⟩, hwb.trans hvl⟩

/-- What one entry of the table answers at an address. -/
def entryAttrs (sp : Space) (a : Nat) (o : Option Window) : Option Attrs :=
  match o with
  | some w => if w.matches sp a then some w.attrs else none
  | none => none

theorem lookup_eq (ws : Vector (Option Window) 16) (sp : Space) (a : Nat) :
    lookup ws sp a = (ws.toList.findSome? (entryAttrs sp a)).getD Attrs.default := rfl

theorem entryAttrs_some {sp : Space} {a : Nat} {o : Option Window} {x : Attrs} :
    entryAttrs sp a o = some x ↔ ∃ w, o = some w ∧ w.matches sp a = true ∧ w.attrs = x := by
  cases o <;> simp [entryAttrs]

theorem exists_entry {ws : Vector (Option Window) 16} {o : Option Window} (h : o ∈ ws.toList) :
    ∃ n : Fin 16, ws[n.val] = o := by
  obtain ⟨i, hi, rfl⟩ := List.mem_iff_getElem.mp h
  exact ⟨⟨i, by simpa using hi⟩, (Vector.getElem_toList _).symm⟩

/-- With no valid entry of the space at the address, the lookup answers the defaults. -/
theorem lookup_default {ws : Vector (Option Window) 16} {sp : Space} {a : Nat}
    (h : ∀ (n : Fin 16) (w : Window), ws[n.val] = some w → w.matches sp a = false) :
    lookup ws sp a = Attrs.default := by
  have silent : ws.toList.findSome? (entryAttrs sp a) = none := by
    refine List.findSome?_eq_none_iff.mpr fun o ho => Option.eq_none_iff_forall_ne_some.mpr fun x hx => ?_
    obtain ⟨n, hn⟩ := exists_entry ho
    obtain ⟨w, rfl, hm, _⟩ := entryAttrs_some.mp hx
    rw [h n w hn] at hm
    cases hm
  rw [lookup_eq, silent]
  rfl

/-- With one valid entry of the space at the address, the lookup answers what that entry says. -/
theorem lookup_some {ws : Vector (Option Window) 16} {sp : Space} {a : Nat} {n : Fin 16} {w : Window}
    (hn : ws[n.val] = some w) (hm : w.matches sp a = true)
    (h : ∀ (m : Fin 16) (v : Window), ws[m.val] = some v → v.matches sp a = true → v = w) :
    lookup ws sp a = w.attrs := by
  rw [lookup_eq]
  cases hf : ws.toList.findSome? (entryAttrs sp a) with
  | none =>
    have silent := List.findSome?_eq_none_iff.mp hf (some w) (by rw [← hn]; simp)
    rw [entryAttrs_some.mpr ⟨w, rfl, hm, rfl⟩] at silent
    cases silent
  | some x =>
    obtain ⟨o, ho, hx⟩ := List.exists_of_findSome?_eq_some hf
    obtain ⟨m, hv⟩ := exists_entry ho
    obtain ⟨v, rfl, hvm, rfl⟩ := entryAttrs_some.mp hx
    rw [h m v hv hvm]
    rfl

/-- In a table without overlaps the entry at an address is the one that holds it. -/
theorem windowsOk.unique {ws : Vector (Option Window) 16} (h : windowsOk ws) {n m : Fin 16} {w v : Window} {sp : Space}
    {a : Nat} (hn : ws[n.val] = some w) (hm : ws[m.val] = some v) (hw : w.matches sp a = true)
    (hv : v.matches sp a = true) : m = n := by
  by_contra hne
  have := h.1 m n v w hm hn hne
  rw [Window.overlaps_of_matches hv hw] at this
  cases this

/-- Settles O18: the one entry that holds the address answers (`lookup_some`), or none does (`lookup_default`). -/
theorem lookupFindsTheWindow : Obligations.LookupFindsTheWindow := by
  refine ⟨fun ws n w a hok hn hb hl => ?_, fun ws sp a h => ?_⟩
  · have hw := (w.matches_iff w.space a).mpr ⟨rfl, hb, hl⟩
    refine lookup_some hn hw fun m v hm hv => ?_
    obtain rfl := hok.unique hn hm hw hv
    exact Option.some.inj (hm.symm.trans hn)
  · refine lookup_default fun n w hn => ?_
    by_contra hm
    obtain ⟨hs, hb, hl⟩ := (w.matches_iff sp a).mp (by simpa using hm)
    have := h n w hn hs
    omega

/-! ### Setting, clearing and listing (R19, R20) -/

/-- A WINDOW_SET is answered by the outcome of its two checks. -/
theorem exec_windowSet (h : s.Listening) (tag : Word) (f : WindowFields) {x : State} {st : Status}
    (hx : x.link = s.link) (hs : s.takeWindowSet tag f [] = x.setSlot (.ready ⟨0x90, st, tag, .none⟩)) :
    exec (.windowSet tag f []) s = .next (x.replied ⟨0x90, st, tag, .none⟩) :=
  congrArg _ (h.answered ⟨tag, .windowSet f, []⟩ (HostRequest.length_small (by simp [RequestBody.size])) x hx _ hs)

theorem takeWindowSet_badField (tag : Word) (f : WindowFields) (h : ∀ n w, ¬ f.Asks n w) :
    s.takeWindowSet tag f [] = s.setSlot (.ready ⟨0x90, .badField, tag, .none⟩) := by
  simp only [State.takeWindowSet, State.noData, none_of_asks (fun n w => checkWindow_some) h]
  rfl

theorem takeWindowSet_overlap (tag : Word) {f : WindowFields} {n : Fin 16} {w : Window} (h : f.Asks n w)
    (ho : overlapsOther s.windows n w = true) :
    s.takeWindowSet tag f [] = s.setSlot (.ready ⟨0x90, .overlap, tag, .none⟩) := by
  simp only [State.takeWindowSet, State.noData, checkWindow_some.mpr h, ho]
  rfl

theorem takeWindowSet_stores (tag : Word) {f : WindowFields} {n : Fin 16} {w : Window} (h : f.Asks n w)
    (ho : overlapsOther s.windows n w = false) :
    s.takeWindowSet tag f [] =
      (s.setWindows (s.windows.set n.val (some w))).setSlot (.ready ⟨0x90, .ok, tag, .none⟩) := by
  simp only [State.takeWindowSet, State.noData, checkWindow_some.mpr h, ho]
  rfl

/-- Settles O16: the range checks of R19, then the overlap test, then the store. -/
theorem windowSetChecksAndStores : Obligations.WindowSetChecksAndStores := by
  intro tag f s h
  refine ⟨fun hn => exec_windowSet h tag f rfl (takeWindowSet_badField tag f hn),
    fun n w hw => ⟨fun ho => ?_, fun ho => ?_⟩⟩
  · exact exec_windowSet h tag f rfl (takeWindowSet_overlap tag hw ((overlapsOther_iff ..).mpr ho))
  · refine exec_windowSet h tag f rfl (takeWindowSet_stores tag hw ?_)
    rw [← Bool.not_eq_true, overlapsOther_iff]
    rintro ⟨m, w', hm, hw', hs, hb, hl⟩
    have := ho m w' hm hw' hs
    omega

/-- A WINDOW_CLEAR is answered by the outcome of its check. -/
theorem exec_windowClear (h : s.Listening) (tag : Word) (e : Byte) {x : State} {st : Status} (hx : x.link = s.link)
    (hs : s.takeWindowClear tag e [] = x.setSlot (.ready ⟨0x91, st, tag, .none⟩)) :
    exec (.windowClear tag e []) s = .next (x.replied ⟨0x91, st, tag, .none⟩) :=
  congrArg _ (h.answered ⟨tag, .windowClear e, []⟩ (HostRequest.length_small (by simp [RequestBody.size])) x hx _ hs)

/-- The addresses of a cleared entry are in no window. -/
theorem lookup_cleared {ws : Vector (Option Window) 16} (h : windowsOk ws) {n : Fin 16} {w : Window} {a : Nat}
    (hn : ws[n.val] = some w) (hb : w.base ≤ a) (hl : a ≤ w.limit) :
    lookup (ws.set n.val none) w.space a = Attrs.default := by
  refine lookup_default fun m v hm => ?_
  by_contra hv
  rw [Bool.not_eq_false] at hv
  by_cases hmn : m = n
  · subst hmn; simp at hm
  · rw [Vector.getElem_set_ne _ _ (fun e => hmn (Fin.ext e.symm))] at hm
    exact hmn (h.unique hn hm ((w.matches_iff ..).mpr ⟨rfl, hb, hl⟩) hv)

/-- Settles O17: the entry number is checked, the entry becomes invalid (`lookup_cleared`), the list is the table. -/
theorem windowClearAndList : Obligations.WindowClearAndList := by
  intro tag s h
  refine ⟨fun e he => ?_, fun e n he => ?_, fun n hn => ?_, fun n w a hok hn hb hl => lookup_cleared hok hn hb hl, ?_⟩
  · refine exec_windowClear h tag e rfl ?_
    simp only [State.takeWindowClear, State.noData, finOf_none.mpr he]
    rfl
  · refine exec_windowClear (x := s.setWindows (s.windows.set n.val none)) h tag e rfl ?_
    simp only [State.takeWindowClear, State.noData, finOf_some.mpr he]
    rfl
  · rw [← hn, Vector.set_getElem_self]
  · have small := HostRequest.length_small (tag := tag) (b := .windowList) (d := []) (by simp [RequestBody.size])
    exact congrArg _ (h.answered _ small s rfl _ rfl)

/-! ### What else changes the table -/

/-- The window table and the transfers that wait are as before. -/
structure WindowsKept (s t : State) : Prop where
  windows : t.windows = s.windows
  pipe : t.link.pipe = s.link.pipe

theorem WindowsKept.trans {a b c : State} (h : WindowsKept a b) (k : WindowsKept b c) : WindowsKept a c :=
  ⟨k.windows.trans h.windows, k.pipe.trans h.pipe⟩

theorem Keeps.windowsKept (h : Keeps s t) : WindowsKept s t where
  windows := h.windows
  pipe := by obtain ⟨x, hx⟩ := h.link; rw [hx]

theorem State.windows_takeMessage (s : State) : s.takeMessage.windows = s.windows := by
  unfold State.takeMessage State.takeQueued State.takeNotice State.noticeSent State.channelNoticeSent
  repeat' split
  all_goals rfl

/-- With no transfer waiting, the settling of the link leaves the window table alone. -/
theorem WindowsKept.settleLink (h : WindowsKept s t) (hp : s.link.pipe = []) : t.settleLink.windows = s.windows := by
  unfold State.settleLink
  split
  · exact h.windows
  · rw [h.pipe, hp]
    exact t.windows_takeMessage.trans h.windows

theorem WindowsKept.settle (h : WindowsKept s t) (hp : s.link.pipe = []) : t.settle.windows = s.windows :=
  (h.trans ((Keeps.refl t).settleBlocks.windowsKept)).settleLink hp

theorem State.windows_admission (s : State) (k : Byte) (tag : Word) (op : Option Op) :
    (s.admission k tag op).windows = s.windows := by
  unfold State.admission
  repeat' split
  · rfl
  · rfl
  · rfl
  · exact (Untouched.refl _).settleBlocks.windows

theorem State.windows_noData {s t : State} (k : Byte) (tag : Word) (d : List Byte) (h : t.windows = s.windows) :
    (s.noData k tag d t).windows = s.windows := by
  unfold State.noData
  split
  · exact h
  · rfl

/-- A QUEUE_CANCEL writes the request queue, and what its release of SRESET lets the blocks do. -/
theorem State.windows_takeQueueCancel (s : State) (tag g : Word) (d : List Byte) :
    (s.takeQueueCancel tag g d).windows = s.windows := by
  refine State.windows_noData _ _ _ ?_
  split
  · rfl
  · split
    · exact (Untouched.refl _).settleBlocks.windows
    · exact (Keeps.settleBlocks (Keeps.answer (Keeps.cancelActive (Keeps.refl s) _) ..)).windows
    all_goals rfl

/-- The taking of a request that is no WINDOW_SET, WINDOW_CLEAR or PART_RESET leaves the window table alone. -/
theorem State.windows_serve (s : State) (r : HostRequest) (hset : ∀ f, r.body ≠ .windowSet f)
    (hclear : ∀ e, r.body ≠ .windowClear e) (hreset : r.body ≠ .partReset) : (s.serve r).windows = s.windows := by
  unfold State.serve
  cases hb : r.body with
  | windowSet f => exact absurd hb (hset f)
  | windowClear e => exact absurd hb (hclear e)
  | partReset => exact absurd hb hreset
  | identify => exact (Keeps.takeIdentify ..).windows
  | statusGet => exact (Keeps.takeStatusGet ..).windows
  | windowList => exact (Keeps.takeWindowList ..).windows
  | memoryRead o n => exact (Keeps.takeMemoryRead ..).windows
  | memoryWrite o => exact (Keeps.takeMemoryWrite ..).windows
  | memoryFill o n p => exact (Keeps.takeMemoryFill ..).windows
  | refreshSet p c => exact (Keeps.takeRefreshSet ..).windows
  | channelSet f => exact (Keeps.takeChannelSet ..).windows
  | channelStage f => exact (Keeps.takeChannelStage ..).windows
  | channelQuiesce c => exact (Keeps.takeChannelQuiesce ..).windows
  | lineSet f => exact (Keeps.takeLineSet ..).windows
  | lineEnd n => exact (Keeps.takeLineEnd ..).windows
  | watchSet f => exact (Keeps.takeWatchSet ..).windows
  | watchStart => exact (Keeps.takeWatchStart ..).windows
  | watchStop => exact (Keeps.takeWatchStop ..).windows
  | watchRead => exact (Keeps.takeWatchRead ..).windows
  | queuePause => exact State.windows_noData _ _ _ rfl
  | queueResume => exact State.windows_noData _ _ _ (Untouched.refl _).settleBlocks.windows
  | queueFlush => exact State.windows_noData _ _ _ (Untouched.refl _).settleBlocks.windows
  | queueCancel g => exact s.windows_takeQueueCancel ..
  | _ => exact s.windows_admission ..

/-- Such a request leaves the window table alone as it arrives, when no transfer waits before it. -/
theorem State.windows_arrive (s : State) (r : HostRequest) (hp : s.link.pipe = [])
    (hset : ∀ f, r.body ≠ .windowSet f) (hclear : ∀ e, r.body ≠ .windowClear e) (hreset : r.body ≠ .partReset) :
    (s.arrive (.request r)).windows = s.windows := by
  have taken : (s.takeFramed (.request r)).windows = s.windows := by
    unfold State.takeFramed
    dsimp only
    split
    · rfl
    · exact s.windows_serve r hset hclear hreset
  unfold State.arrive
  split
  · rfl
  · rw [hp, List.nil_append]
    unfold State.drain
    split
    · exact (State.windows_takeMessage _).trans taken
    all_goals rfl

theorem WindowsKept.memoryTurnEnd (s : State) : WindowsKept s s.memoryTurnEnd := by
  unfold State.memoryTurnEnd
  split
  · exact ⟨rfl, rfl⟩
  · rename_i u _
    have stored : WindowsKept s ((s.setMem (u.serve s.mem).1).setPort { s.port with turn := none }) := ⟨rfl, rfl⟩
    refine stored.trans (Keeps.windowsKept (Keeps.unitServed ?_ ..))
    split
    · exact (Keeps.refl _).portTie
    · exact Keeps.refl _

theorem WindowsKept.partResetEnd (s : State) : WindowsKept s s.partResetEnd := by
  unfold State.partResetEnd
  split
  · have ended : WindowsKept s ((s.setLink { s.link with resetting := false }).setRefresh
        { s.refresh with timer := some Config.defaultRefreshPeriod }) := ⟨rfl, rfl⟩
    exact ended.trans (Keeps.windowsKept ((Keeps.refl _).finishWork ..))
  · exact ⟨rfl, rfl⟩

theorem State.windows_queueLinkReset (s : State) : s.queueLinkReset.windows = s.windows := by
  unfold State.queueLinkReset
  dsimp only
  split
  · exact (Keeps.sresetRelease (Keeps.refl _)).windows
  · rfl

theorem State.windows_linkReset (s : State) : s.linkReset.windows = s.windows := by
  unfold State.linkReset
  split
  · rfl
  · have lines (u : State) : ((List.finRange 8).foldl State.lineLinkReset u).windows = u.windows :=
      (Keeps.foldl _ (fun _ n k => k.lineLinkReset n) _ (Keeps.refl u)).windows
    have blocks (u : State) :
        ((List.finRange 4).foldl State.quiesceChannel u).watchLinkReset.settleBlocks.windows = u.windows :=
      (Keeps.foldl _ (fun _ n k => k.quiesceChannel n) _ (Keeps.refl u)).watchLinkReset.settleBlocks.windows
    dsimp only
    rw [blocks, State.windows_queueLinkReset, lines]
    rfl

theorem State.windows_linkConfigured (s : State) (hp : s.link.pipe = []) : s.linkConfigured.windows = s.windows := by
  unfold State.linkConfigured
  split
  · rfl
  · split
    · exact WindowsKept.settleLink ⟨rfl, rfl⟩ hp
    · rfl

theorem State.windows_startUpFillDone (s : State) : s.startUpFillDone.windows = s.windows := by
  unfold State.startUpFillDone
  split <;> rfl

/-- The three requests that write the window table are the commands of their names. -/
theorem Instr.request?_writes {c : Instr} {r : HostRequest} (h : c.request? = some r) :
    (∀ f, r.body = .windowSet f → c = .windowSet r.tag f r.data) ∧
    (∀ e, r.body = .windowClear e → c = .windowClear r.tag e r.data) ∧
    (r.body = .partReset → c = .partReset r.tag r.data) := by
  cases c <;> simp only [Instr.request?, Option.some.injEq, reduceCtorEq] at h <;> subst h <;> simp

/-- Settles O20: a request by what its taking writes (`State.windows_serve`), an event by each of its outcomes. -/
theorem windowsFrame : Obligations.WindowsFrame := by
  intro c s t h hp hset hclear hreset hpower hframing
  cases hr : c.request? with
  | some r =>
    obtain rfl := Host.Outcome.next.inj ((exec_request hr s).symm.trans h)
    obtain ⟨asksSet, asksClear, asksReset⟩ := Instr.request?_writes hr
    exact s.windows_arrive r hp (fun f hb => hset _ _ _ (asksSet f hb)) (fun e hb => hclear _ _ _ (asksClear e hb))
      fun hb => hreset _ _ (asksReset hb)
  | none =>
    obtain ⟨u, hu, outcome⟩ := exec_event hr s
    obtain rfl := Host.Outcome.next.inj (hu.symm.trans h)
    cases outcome with
    | kept k => exact k.windows
    | linkSettled k => exact k.windowsKept.settleLink hp
    | settled k => exact k.windowsKept.settle hp
    | partResetEnd => exact (WindowsKept.partResetEnd s).settle hp
    | refusedAtFraming l => exact absurd rfl (hframing l)
    | reportComplete => exact WindowsKept.settleLink ⟨rfl, rfl⟩ hp
    | linkReset => exact s.windows_linkReset
    | linkConfigured => exact s.windows_linkConfigured hp
    | powerOn a b d => exact absurd rfl (hpower a b d)
    | startUpFillDone => exact s.windows_startUpFillDone
    | memoryTurnEnd => exact (WindowsKept.memoryTurnEnd s).settle hp

end Sys2Proof.Machine
end

/-! ## The checks at the start of an element (R16, R79, R89, R95, R127) -/
section
namespace Sys2Proof.Machine

theorem Width.bytes_pos (w : Width) : 1 ≤ w.bytes := by cases w <;> decide

/-- The window of a memory offset that lies inside base memory (R127). -/
theorem baseWindow_inside (ws : Vector (Option Window) 16) {off : Int} (h0 : 0 ≤ off) (h1 : off ≤ 0xFFFFF) :
    baseWindow ws off =
      if (lookup ws .memory off.toNat).owner = .baseMemory then some (lookup ws .memory off.toNat) else none := by
  unfold baseWindow
  rw [if_pos ⟨h0, by simp only [Config.memorySize]; omega⟩]

theorem baseWindow_outside (ws : Vector (Option Window) 16) {off : Int} (h : off < 0 ∨ 0xFFFFF < off) :
    baseWindow ws off = none := by
  unfold baseWindow
  exact if_neg (by simp only [Config.memorySize]; omega)

/-- An offset is protected when its BASE_MEMORY window is (R43). -/
theorem protectedOffset_inside (ws : Vector (Option Window) 16) {off : Int} (h0 : 0 ≤ off) (h1 : off ≤ 0xFFFFF) :
    protectedOffset ws off = true ↔
      (lookup ws .memory off.toNat).owner = .baseMemory ∧ (lookup ws .memory off.toNat).writeProtect = true := by
  unfold protectedOffset
  rw [baseWindow_inside ws h0 h1]
  by_cases ho : (lookup ws .memory off.toNat).owner = .baseMemory
  · simp [ho]
  · simp [ho]

/-- R16, in the order of its table. -/
theorem checkElement_spec (at' : Attrs) (isWrite : Bool) (a : Nat) (w : Width) :
    (at'.owner = .blocked → checkElement at' isWrite a w = some .windowBlocked) ∧
    (at'.owner ≠ .blocked → at'.writeProtect = true → isWrite = true →
      checkElement at' isWrite a w = some .writeProtected) ∧
    (at'.owner = .baseMemory → at'.writeProtect = false ∨ isWrite = false →
      checkElement at' isWrite a w = if 0xFFFFF < a + w.bytes - 1 then some .range else none) ∧
    (at'.owner = .card → at'.writeProtect = false ∨ isWrite = false → checkElement at' isWrite a w = none) := by
  have hw := w.bytes_pos
  have allowed : at'.writeProtect = false ∨ isWrite = false → (at'.writeProtect && isWrite) = false := by
    rintro (h | h) <;> simp [h]
  refine ⟨fun ho => ?_, fun ho hp hi => ?_, fun ho h => ?_, fun ho h => ?_⟩
  · simp [checkElement, ho]
  · cases hb : at'.owner with
    | blocked => exact absurd hb ho
    | card => simp [checkElement, hb, hp, hi]
    | baseMemory => simp [checkElement, hb, hp, hi]
  · simp only [checkElement, ho, allowed h, Bool.false_eq_true, if_false, Config.memorySize]
    exact if_congr (by omega) rfl rfl
  · simp [checkElement, ho, allowed h]

/-- R127: the offset in no BASE_MEMORY window. -/
theorem dmaRefusal_address {ws : Vector (Option Window) 16} (c : ChannelConfig) {b : Block}
    (h : baseWindow ws b.offset = none) : dmaRefusal ws c b = some .dmaAddress := by
  unfold dmaRefusal
  rw [h]

/-- R127: the checks of an offset that lies in a BASE_MEMORY window. -/
theorem dmaRefusal_inside {ws : Vector (Option Window) 16} (c : ChannelConfig) {b : Block} (h0 : 0 ≤ b.offset)
    (h1 : b.offset ≤ 0xFFFFF) (ho : (lookup ws .memory b.offset.toNat).owner = .baseMemory) :
    dmaRefusal ws c b =
      if c.width = .two ∧ b.offset = 0xFFFFF then some .range
      else if c.direction = .cardToMemory ∧ (lookup ws .memory b.offset.toNat).writeProtect = true then
        some .writeProtected
      else none := by
  unfold dmaRefusal
  rw [baseWindow_inside ws h0 h1, if_pos ho]
  refine if_congr (and_congr_right fun _ => ?_) rfl rfl
  simp only [Config.memorySize]
  omega

theorem dmaRefusal_spec (ws : Vector (Option Window) 16) (c : ChannelConfig) (b : Block) :
    let at' := lookup ws .memory b.offset.toNat
    (b.offset < 0 ∨ 0xFFFFF < b.offset → dmaRefusal ws c b = some .dmaAddress) ∧
    (0 ≤ b.offset → b.offset ≤ 0xFFFFF →
      (at'.owner ≠ .baseMemory → dmaRefusal ws c b = some .dmaAddress) ∧
      (at'.owner = .baseMemory →
        (c.width = .two → b.offset = 0xFFFFF → dmaRefusal ws c b = some .range) ∧
        (c.width = .one ∨ b.offset ≠ 0xFFFFF →
          dmaRefusal ws c b =
            if c.direction = .cardToMemory ∧ at'.writeProtect = true then some .writeProtected else none))) := by
  refine ⟨fun h => dmaRefusal_address c (baseWindow_outside ws h), fun h0 h1 => ⟨fun ho => ?_, fun ho => ⟨?_, ?_⟩⟩⟩
  · exact dmaRefusal_address c ((baseWindow_inside ws h0 h1).trans (if_neg ho))
  · intro hw hb
    rw [dmaRefusal_inside c h0 h1 ho, if_pos ⟨hw, hb⟩]
  · intro h
    rw [dmaRefusal_inside c h0 h1 ho, if_neg]
    rintro ⟨hw, hb⟩
    rcases h with h | h
    · rw [h] at hw; cases hw
    · exact h hb

/-- R79, R89, R95: the unit inside base memory, a store outside the protected windows. -/
theorem checkMemory_spec (ws : Vector (Option Window) 16) (store : Bool) (w : Width) (off : Int) :
    let at' := lookup ws .memory off.toNat
    (off < 0 ∨ 0xFFFFF < off + w.bytes - 1 → checkMemory ws store w off = some ⟨.range, some (.memory, off), false⟩) ∧
    (0 ≤ off → off + w.bytes - 1 ≤ 0xFFFFF →
      checkMemory ws store w off =
        if store = true ∧ at'.owner = .baseMemory ∧ at'.writeProtect = true then
          some ⟨.writeProtected, some (.memory, off), false⟩
        else none) := by
  have hw := w.bytes_pos
  refine ⟨fun h => ?_, fun h0 h1 => ?_⟩
  · exact if_pos (by simp only [Config.memorySize]; omega)
  · unfold checkMemory
    rw [if_neg (by simp only [Config.memorySize]; omega)]
    refine if_congr ?_ rfl rfl
    rw [Bool.and_eq_true, protectedOffset_inside ws h0 (by omega)]

/-- The plan of an element whose card side is checked, and its memory side after it (R79). -/
theorem planCard_withMemory (ws : Vector (Option Window) 16) (item : WorkItem) (owner : CycleOwner) (k : CardSide)
    (a : Nat) (o : ElementOp) (after : AfterPart) (stage : Stage) (r : Option FailRecord) :
    (planCard ws item owner k a o after stage).withMemory r =
      match checkElement (lookup ws k.space a) o.isWrite a k.width, r with
      | some f, _ => .refuse ⟨f, some (k.space, (a : Int)), false⟩
      | none, some r => .refuse r
      | none, none => .start ⟨item, owner, k.space, a, k.width, lookup ws k.space a, o, after, stage, 0⟩ := by
  unfold planCard Plan.withMemory
  dsimp only
  cases checkElement (lookup ws k.space a) o.isWrite a k.width with
  | some f => rfl
  | none => cases r <;> rfl

/-- The plan of an element with no memory side of its own. -/
theorem planCard_alone (ws : Vector (Option Window) 16) (item : WorkItem) (owner : CycleOwner) (k : CardSide)
    (a : Nat) (o : ElementOp) (after : AfterPart) (stage : Stage) :
    (planCard ws item owner k a o after stage).withMemory none = planCard ws item owner k a o after stage := by
  cases planCard ws item owner k a o after stage <;> rfl

/-- Settles O19: R16 (`checkElement_spec`), R127 (`dmaRefusal_spec`), R79 (`checkMemory_spec`), then the plan of each
kind of operation. -/
theorem checksAtAnElementsStart : Obligations.ChecksAtAnElementsStart := by
  refine ⟨checkElement_spec, dmaRefusal_spec, checkMemory_spec, fun ws item owner p k => ?_⟩
  have planned (o : ElementOp) (after : AfterPart) (stage : Stage) (r : Option FailRecord) :=
    congrArg some (planCard_withMemory ws item owner k p.card o after stage r)
  have alone (o : ElementOp) (after : AfterPart) (stage : Stage) :=
    (congrArg some (planCard_alone ws item owner k p.card o after stage)).symm.trans (planned o after stage none)
  refine ⟨alone .read _ _, fun v => alone (.write v) _ _, fun x o => alone (.modify x o) _ _,
    fun st n off ms => planned .read _ _ _, fun st n d => alone .read _ _, fun st n off ms => planned (.write 0) _ _ _,
    fun st n d => alone (.write (inlineValue k.width d p.mem.toNat)) _ _, fun st n cond o m i => alone .read _ _,
    fun st n cond o m i cap => planned .read _ _ _, fun st off ms n cond m => planned .read _ _ _,
    fun d => rfl, fun src ms => rfl, fun d => rfl⟩

end Sys2Proof.Machine
end

/-! ## SFAULT (R8, R9) -/
section
namespace Sys2Proof.Machine

theorem State.sfaultRise_level (s : State) (h : s.sfault = true) : s.sfaultRise = s := by
  simp [State.sfaultRise, h]

theorem State.sfaultRise_edge (s : State) (h : s.sfault = false) :
    s.sfaultRise = if s.link.resetting then s.setSfault true
      else (s.setSfault true).setNotices (postTo s.notices .check (.check s.bus.record)) := by
  unfold State.sfaultRise
  rw [h]
  rfl

/-- Settles O53: an edge posts, a level or a part reset does not. -/
theorem sfaultEdgesAreReported : Obligations.SfaultEdgesAreReported := by
  intro s
  have rise : exec .sfaultRise s = .next s.sfaultRise.settleLink := rfl
  refine ⟨fun h hr => ?_, fun h hr => ?_, fun h => ?_, rfl⟩
  · rw [rise, s.sfaultRise_edge h, hr]; rfl
  · rw [rise, s.sfaultRise_edge h, hr]; rfl
  · rw [rise, s.sfaultRise_level h]

end Sys2Proof.Machine
end

/-! ## A bus master's cycle (R18, R42, R137) -/
section
namespace Sys2Proof.Machine

/-- With no channel in MASTER no cascade tenure is in progress. -/
theorem State.masterChannel_none {s : State}
    (h : ∀ n, s.arbiter = .granted (.channel n) → (s.channel n).state ≠ .master) : s.masterChannel = none := by
  unfold State.masterChannel
  split
  · rename_i n ha
    exact if_neg (h n ha)
  all_goals rfl

theorem State.masterChannel_tenure {s : State} {n : Fin 4} (ha : s.arbiter = .granted (.channel n))
    (hm : (s.channel n).state = .master) : s.masterChannel = some n := by
  unfold State.masterChannel
  rw [ha]
  exact if_pos hm

/-- R18: the 16-bit cycles are those not at the last byte. -/
theorem masterWide_eq (at' : Attrs) (a : Nat) (shigh : Bool) :
    masterWide at' a shigh = (shigh && at'.width != .narrow && decide (a < 0xFFFFF)) := by
  unfold masterWide
  exact congrArg _ (decide_eq_decide.mpr (by simp only [Config.memorySize]; omega))

/-- An address phase in a cascade tenure, no strobe asserted: the cycle before it is over, and the window at the address
decides the answer. -/
theorem State.masterAddressPhase_tenure {s : State} {n : Fin 4} (ha : s.arbiter = .granted (.channel n))
    (hm : (s.channel n).state = .master) (hs : ∀ m, s.bus.master = some m → m.strobe = false) (sp : Space) (a : Nat)
    (shigh isWrite : Bool) :
    let at' := lookup s.windows sp a
    let wide := shigh && at'.width != .narrow && decide (a < 0xFFFFF)
    let x := s.dropMaster
    s.masterAddressPhase sp a shigh isWrite =
      if sp = .memory ∧ at'.owner = .baseMemory then
        if isWrite then
          if at'.writeProtect then
            (x.setMaster (some ⟨sp, a, true, wide, .writeProtected, false⟩)).setChannel n
              { s.channel n with protectHit := true }
          else x.setMaster (some ⟨sp, a, true, wide, .writeIdle a, false⟩)
        else
          (x.setMaster (some ⟨sp, a, false, wide, .readWait, false⟩)).setPort
            { x.port with bus := x.port.bus ++ [⟨.masterRead, a, if wide then .two else .one, .read⟩] }
      else x.setMaster (some ⟨sp, a, isWrite, false, .none, false⟩) := by
  dsimp only
  rw [← masterWide_eq]
  unfold State.masterAddressPhase
  rw [State.masterChannel_tenure ha hm]
  refine if_neg ?_
  split
  · simp [hs _ ‹_›]
  · exact Bool.false_ne_true

/-- What an address phase leaves of the cycle before it (log 12). -/
theorem State.dropMaster_eq (s : State) :
    s.dropMaster = (s.setBus { s.bus with master := none }).setPort { s.port with
      bus := (s.port.bus.filter fun u => u.requester != .masterRead).map fun u =>
        if u.requester = .masterStore then { u with requester := .orphan } else u
      turn := s.port.turn.map fun u =>
        if u.requester = .masterStore ∨ u.requester = .masterRead then { u with requester := .orphan } else u } := by
  have stores : (s.port.bus.filter fun u => u.requester != .masterRead).map (fun u : MemUnit =>
        if u.requester = .masterStore ∨ u.requester = .masterRead then { u with requester := .orphan } else u) =
      (s.port.bus.filter fun u => u.requester != .masterRead).map fun u =>
        if u.requester = .masterStore then { u with requester := .orphan } else u := by
    refine List.map_congr_left fun u hu => ?_
    have hr : u.requester ≠ .masterRead := by simpa using (List.mem_filter.mp hu).2
    simp [hr]
  rw [← stores]
  rfl

/-- Settles O54: outside a cascade tenure nothing is answered; inside one the window decides
(`State.masterAddressPhase_tenure`). -/
theorem masterCyclesAreAnswered : Obligations.MasterCyclesAreAnswered := by
  refine ⟨fun sp a shigh isWrite s h => ?_, fun sp a shigh n s ha hm hs => ?_, State.dropMaster_eq⟩
  · have idle : s.masterAddressPhase sp a.toNat shigh isWrite = s := by
      simp only [State.masterAddressPhase, State.masterChannel_none h]
    exact next_settle_congr idle
  · have phase (isWrite : Bool) := State.masterAddressPhase_tenure ha hm hs sp a.toNat shigh isWrite
    have run (isWrite : Bool) {x : State} (hx : s.masterAddressPhase sp a.toNat shigh isWrite = x) :
        exec (.masterCycleAddressPhase sp a shigh isWrite) s = .next x.settle :=
      next_settle_congr hx
    refine ⟨fun h isWrite => run _ ((phase _).trans (if_neg ?_)), fun hsp ho =>
      ⟨run _ ((phase false).trans (if_pos ⟨hsp, ho⟩)), fun hp => run _ ((phase true).trans ?_),
        fun hp => run _ ((phase true).trans ?_)⟩⟩
    · rintro ⟨hsp, ho⟩
      rcases h with h | h
      · rw [h] at hsp; cases hsp
      · exact h ho
    · rw [if_pos ⟨hsp, ho⟩, if_pos rfl, if_neg (by simp [hp])]
    · rw [if_pos ⟨hsp, ho⟩, if_pos rfl, if_pos hp]

end Sys2Proof.Machine
end

/-! ## The clocks of a cycle (R3-R5) -/
section
namespace Sys2Proof.Machine

/-- From the address clock with no SWAIT held, the clocks before the programmed length run on. -/
theorem Cycle.run_before {c : Cycle} (hc : c.clock = 1) (hh : c.held = false) {ws : List Bool}
    (hl : ws.length < c.programmed - 1) :
    ∃ b, Cycle.run ws c = .running { c with clock := ws.length + 1, held := b } ∧
      (c.kind ≠ .refresh → (b = true ↔ true ∈ ws)) ∧ (c.kind = .refresh → b = false) := by
  obtain ⟨b, hrun, hb, hr⟩ := Cycle.run_early c ws (by omega)
  rw [hc, Nat.add_comm] at hrun
  exact ⟨b, hrun, by simpa [hh] using hb, fun hk => (hr hk).trans hh⟩

/-- The clock at the programmed length: the cycle ends unless SWAIT was sampled asserted by then. -/
theorem Cycle.clockStep_programmed {c : Cycle} (hc : c.clock + 1 = c.programmed) (w : Bool) :
    c.clockStep w =
      if (c.held || (w && c.kind != .refresh)) then .running { c with clock := c.programmed, held := true }
      else .ended := by
  unfold Cycle.clockStep
  simp only [hc, lt_irrefl, if_false, if_true, le_refl, decide_true, Bool.and_true]
  split <;> simp_all

/-- A clock past the programmed length with SWAIT asserted: held on, unless the strobe exceeds the ready timeout. -/
theorem Cycle.clockStep_held {c : Cycle} (hk : c.kind ≠ .refresh) (hc : c.programmed ≤ c.clock) :
    c.clockStep true =
      if 8 * c.readyTimeout < c.clock then .timedOut else .running { c with clock := c.clock + 1 } := by
  unfold Cycle.clockStep
  have hd : decide (c.clock + 1 ≤ c.programmed) = false := decide_eq_false (by omega)
  simp only [if_neg (show ¬ c.clock + 1 < c.programmed by omega), if_neg (show c.clock + 1 ≠ c.programmed by omega),
    Bool.true_and, bne_iff_ne, ne_eq, hk, not_false_eq_true, if_true, hd, Bool.and_false, Bool.or_false,
    Config.clocksPerMicrosecond, Nat.add_sub_cancel]

/-- A clock past the programmed length with SWAIT deasserted: the cycle ends at its second or a later one. -/
theorem Cycle.clockStep_let_go {c : Cycle} (hc : c.programmed ≤ c.clock) :
    c.clockStep false =
      if c.programmed + 1 ≤ c.clock then .ended else .running { c with clock := c.clock + 1 } := by
  unfold Cycle.clockStep
  simp only [if_neg (show ¬ c.clock + 1 < c.programmed by omega), if_neg (show c.clock + 1 ≠ c.programmed by omega),
    Bool.false_and, Bool.false_eq_true, if_false, Bool.or_false]
  exact if_congr (by omega) rfl rfl

/-- A list of samples up to the programmed length, by what they hold (R3, R4). -/
theorem Cycle.run_programmed {c : Cycle} (hc : c.clock = 1) (hh : c.held = false) {ws : List Bool}
    (hl : ws.length = c.programmed - 1) (hp : 2 ≤ c.programmed) :
    (true ∉ ws ∨ c.kind = .refresh → Cycle.run ws c = .ended) ∧
    (true ∈ ws → c.kind ≠ .refresh → Cycle.run ws c = .running { c with clock := c.programmed, held := true }) := by
  have hne : ws ≠ [] := by rintro rfl; simp at hl; omega
  obtain ⟨xs, w, rfl⟩ : ∃ xs w, ws = xs ++ [w] := ⟨_, _, (List.dropLast_append_getLast hne).symm⟩
  simp only [List.length_append, List.length_singleton] at hl
  obtain ⟨b, hrun, hb, hr⟩ := Cycle.run_before hc hh (ws := xs) (by omega)
  rw [Cycle.run_append _ _ _ _ hrun]
  have last := Cycle.clockStep_programmed (c := { c with clock := xs.length + 1, held := b })
    (by dsimp only; omega) w
  simp only [Cycle.run, last]
  by_cases hk : c.kind = .refresh
  · simp [hk, hr hk]
  · have := hb hk
    cases b <;> cases w <;> simp_all

/-- While SWAIT stays asserted past the programmed length, the cycle is held up to its ready timeout (R5). -/
theorem Cycle.run_held {c : Cycle} (hk : c.kind ≠ .refresh) (hc : c.programmed ≤ c.clock) (k : Nat)
    (ht : ∀ j, j < k → c.clock + j ≤ 8 * c.readyTimeout) :
    Cycle.run (List.replicate k true) c = .running { c with clock := c.clock + k } := by
  induction k generalizing c with
  | zero => rfl
  | succ k ih =>
    rw [List.replicate_succ, Cycle.run, Cycle.clockStep_held hk hc, if_neg (by have := ht 0 (by omega); omega)]
    dsimp only
    rw [ih (c := { c with clock := c.clock + 1 }) hk (by dsimp only; omega)
      (fun j hj => by have := ht (j + 1) (by omega); dsimp only; omega)]
    simp only [Nat.add_assoc, Nat.add_comm 1]

/-- Let go at its programmed length, a held cycle lasts two clocks more (R4). -/
theorem Cycle.run_let_go {c : Cycle} (hc : c.clock = c.programmed) :
    Cycle.run [false] c = .running { c with clock := c.programmed + 1 } ∧ Cycle.run [false, false] c = .ended := by
  have first := Cycle.clockStep_let_go (c := c) (by omega)
  rw [if_neg (by omega), hc] at first
  have second := Cycle.clockStep_let_go (c := { c with clock := c.programmed + 1 }) (Nat.le_succ _)
  rw [if_pos (le_refl _)] at second
  simp only [Cycle.run, first, second, and_self]

/-- Held from its programmed length on, a cycle runs, times out, or ends at the first clock that lets it go (R4, R5). -/
theorem Cycle.run_past {c : Cycle} (hk : c.kind ≠ .refresh) (hc : c.clock = c.programmed) (k : Nat)
    (ht : ∀ j, j < k → c.programmed + j ≤ 8 * c.readyTimeout) :
    Cycle.run (List.replicate k true) c = .running { c with clock := c.programmed + k } ∧
    (8 * c.readyTimeout < c.programmed + k → Cycle.run (List.replicate (k + 1) true) c = .timedOut) ∧
    (1 ≤ k → Cycle.run (List.replicate k true ++ [false]) c = .ended) := by
  have stays := Cycle.run_held hk (by omega) k (hc ▸ ht)
  rw [hc] at stays
  refine ⟨stays, fun hx => ?_, fun h1 => ?_⟩
  · have expires := Cycle.clockStep_held (c := { c with clock := c.programmed + k }) hk (Nat.le_add_right ..)
    rw [if_pos hx] at expires
    rw [List.replicate_succ', Cycle.run_append _ _ _ _ stays]
    simp only [Cycle.run, expires]
  · have ended := Cycle.clockStep_let_go (c := { c with clock := c.programmed + k }) (Nat.le_add_right ..)
    rw [if_pos (Nat.add_le_add_left h1 _)] at ended
    rw [Cycle.run_append _ _ _ _ stays]
    simp only [Cycle.run, ended]

/-- Settles O48: up to the programmed length (`Cycle.run_programmed`), then let go (`Cycle.run_let_go`) or held on
(`Cycle.run_past`). -/
theorem cycleLengthBySwait : Obligations.CycleLengthBySwait := by
  intro c hc hh hp
  have programmed (ws : List Bool) (hl : ws.length = c.programmed - 1) := Cycle.run_programmed hc hh hl hp
  refine ⟨fun k hk => ?_, ?_, fun hk ws hl => (programmed ws hl).1 (.inr hk), fun hk ws hl hw => ?_⟩
  · obtain ⟨b, hrun, hb, hr⟩ := Cycle.run_before hc hh (ws := List.replicate k false) (by simpa using hk)
    have : b = c.held := by
      by_cases hk : c.kind = .refresh
      · rw [hr hk, hh]
      · rw [hh, ← Bool.not_eq_true, hb hk]; simp
    rw [hrun, this, List.length_replicate]
  · exact (programmed _ (List.length_replicate ..)).1 (.inl (by simp))
  · have held := (programmed ws hl).2 hw hk
    have onwards (ys : List Bool) := Cycle.run_append ws ys _ _ held
    obtain ⟨first, second⟩ := Cycle.run_let_go (c := { c with clock := c.programmed, held := true }) rfl
    refine ⟨held, (onwards _).trans first, (onwards _).trans second, fun k ht => ?_⟩
    obtain ⟨stays, expires, ended⟩ :=
      Cycle.run_past (c := { c with clock := c.programmed, held := true }) hk rfl k ht
    refine ⟨(onwards _).trans stays, fun hx => (onwards _).trans (expires hx), fun h1 => ?_⟩
    rw [List.append_assoc]
    exact (onwards _).trans (ended h1)

end Sys2Proof.Machine
end

/-! ## Grant points (R22, R24, R35) -/
section
namespace Sys2Proof.Machine

/-- The waiting claims, as the owners' records give them (R22, R125). -/
def State.Waits (s : State) : Claimant → Prop
  | .refresh => s.refresh.pending = true
  | .channel n => ((s.channel n).state = .ready ∧ (s.channel n).sreq = true ∧ (s.channel n).current ≠ none) ∨
      (s.channel n).state = .waiting
  | .engine => ∃ e, s.engine.element = some e ∧ e.stage = .card ∧ e.attrs.owner = .card ∧
      ∀ g, s.bus.group = some g → g.user ≠ .engine
  | .watch => ∃ r, s.watch.read = some r ∧ r.attrs.owner = .card ∧ ∀ g, s.bus.group = some g → g.user ≠ .watch

/-- The place of a claimant in the priority (R22). -/
def Claimant.rank : Claimant → Nat
  | .refresh => 0
  | .channel n => n.val + 1
  | .engine => 5
  | .watch => 6

theorem Channel.claims_iff (c : Channel) :
    c.claims = true ↔ (c.state = .ready ∧ c.sreq = true ∧ c.current ≠ none) ∨ c.state = .waiting := by
  unfold Channel.claims
  cases hs : c.state <;> simp [Option.isSome_iff_ne_none]

theorem State.groupOf_false (s : State) (u : GroupUser) :
    s.groupOf u = false ↔ ∀ g, s.bus.group = some g → g.user ≠ u := by
  unfold State.groupOf
  cases s.bus.group <;> simp

theorem State.engineClaims_iff (s : State) : s.engineClaims = true ↔ s.Waits .engine := by
  unfold State.engineClaims State.Waits
  simp only [← State.groupOf_false]
  cases s.engine.element <;> simp [and_assoc]

theorem State.watchClaims_iff (s : State) : s.watchClaims = true ↔ s.Waits .watch := by
  unfold State.watchClaims State.Waits
  simp only [← State.groupOf_false]
  cases s.watch.read <;> simp

theorem State.claims_iff (s : State) (d : Claimant) : s.claims d = true ↔ s.Waits d := by
  cases d with
  | refresh => exact Iff.rfl
  | channel n => exact (s.channel n).claims_iff
  | engine => exact s.engineClaims_iff
  | watch => exact s.watchClaims_iff

/-- In a list that rises by `rank`, the first element that passes a test is the one of least rank. -/
theorem find?_eq_some_iff_least {α : Type} (rank : α → Nat) {l : List α} (hl : l.Pairwise fun a b => rank a < rank b)
    (p : α → Bool) (d : α) :
    l.find? p = some d ↔ d ∈ l ∧ p d = true ∧ ∀ a ∈ l, rank a < rank d → p a = false := by
  induction l with
  | nil => simp
  | cons x xs ih =>
    obtain ⟨hx, hxs⟩ := List.pairwise_cons.mp hl
    by_cases hp : p x = true
    · simp only [List.find?_cons, hp, Option.some.injEq]
      constructor
      · rintro rfl
        refine ⟨List.mem_cons_self .., hp, fun a ha hr => ?_⟩
        rcases List.mem_cons.mp ha with rfl | ha
        · omega
        · have := hx a ha; omega
      · rintro ⟨hd, _, hleast⟩
        rcases List.mem_cons.mp hd with rfl | hd
        · rfl
        · have := hleast x (List.mem_cons_self ..) (hx d hd)
          rw [hp] at this; cases this
    · rw [List.find?_cons_of_neg hp, ih hxs]
      constructor
      · rintro ⟨hd, hpd, hleast⟩
        refine ⟨List.mem_cons_of_mem _ hd, hpd, fun a ha hr => ?_⟩
        rcases List.mem_cons.mp ha with rfl | ha
        · simpa using hp
        · exact hleast a ha hr
      · rintro ⟨hd, hpd, hleast⟩
        rcases List.mem_cons.mp hd with rfl | hd
        · exact absurd hpd hp
        · exact ⟨hd, hpd, fun a ha => hleast a (List.mem_cons_of_mem _ ha)⟩

theorem claimants_ranked : claimants.Pairwise fun a b => a.rank < b.rank := by decide

theorem mem_claimants (d : Claimant) : d ∈ claimants := by
  cases d with
  | channel n => revert n; decide
  | _ => decide

/-- A claimant that this grant point may grant (R24, R27, R35). -/
def State.Eligible (s : State) (ex : Option Claimant) (d : Claimant) : Prop :=
  s.Waits d ∧ (s.sreset = .released ∨ d = .refresh) ∧ ex ≠ some d

theorem State.eligible_iff (s : State) (ex : Option Claimant) (d : Claimant) :
    (s.claims d && (!s.inSlotReset || d == .refresh) && (some d != ex)) = true ↔ s.Eligible ex d := by
  simp only [Bool.and_eq_true, Bool.or_eq_true, Bool.not_eq_true', State.inSlotReset_false, beq_iff_eq, bne_iff_ne,
    State.claims_iff, State.Eligible, and_assoc, ne_comm]

/-- The best claim is the eligible claimant of least rank. -/
theorem State.bestClaim_some (s : State) (ex : Option Claimant) (d : Claimant) :
    s.bestClaim ex = some d ↔ s.Eligible ex d ∧ ∀ d', d'.rank < d.rank → ¬ s.Eligible ex d' := by
  rw [State.bestClaim, find?_eq_some_iff_least Claimant.rank claimants_ranked]
  simp only [mem_claimants, true_and, forall_const, s.eligible_iff, ← Bool.not_eq_true]

theorem State.bestClaim_none (s : State) (ex : Option Claimant) :
    s.bestClaim ex = none ↔ ∀ d, ¬ s.Eligible ex d := by
  rw [State.bestClaim, List.find?_eq_none]
  simp only [mem_claimants, forall_const, s.eligible_iff]

/-- An arbiter that is not IDLE grants nothing. -/
theorem State.arbitrateExcept_busy {s : State} (k : Nat) (ex : Option Claimant) (h : s.arbiter ≠ .idle) :
    State.arbitrateExcept k ex s = s := by
  cases k with
  | zero => rfl
  | succ k => exact if_neg h

theorem State.arbitrateExcept_none {s : State} (k : Nat) {ex : Option Claimant} (h : s.bestClaim ex = none) :
    State.arbitrateExcept k ex s = s := by
  cases k with
  | zero => rfl
  | succ k => unfold State.arbitrateExcept; rw [h]; exact ite_self s

theorem State.arbitrateExcept_some {s : State} (k : Nat) {ex : Option Claimant} {d : Claimant} (hi : s.arbiter = .idle)
    (h : s.bestClaim ex = some d) :
    State.arbitrateExcept (k + 1) ex s = State.arbitrateExcept k ex (s.grant d) := by
  rw [State.arbitrateExcept, h]
  exact if_pos hi

/-! ### What a grant does -/

theorem State.grant_cascade {s : State} {n : Fin 4} (hm : (s.channel n).config.mode = .cascade) :
    s.grant (.channel n) =
      if (s.channel n).sreq then
        (s.setChannel n { s.channel n with
          state := .master, tenureTimer := if (s.channel n).config.tenureLimit = 0 then none
            else some (s.channel n).config.tenureLimit }).setArbiter (.granted (.channel n))
      else (s.setChannel n { s.channel n with state := .idle }).setArbiter .idle :=
  if_pos hm

theorem State.grant_transfer {s : State} {n : Fin 4} (hm : (s.channel n).config.mode ≠ .cascade) :
    s.grant (.channel n) =
      ((s.setChannel n { s.channel n with state := .moving }).setArbiter (.granted (.channel n))).dmaElementStart n :=
  if_neg hm

theorem State.grant_engine {s : State} {e : Element} (h : s.engine.element = some e) :
    s.grant .engine = (s.setArbiter (.granted .engine)).startGroupCycle e.group := by
  simp only [State.grant, h]

theorem State.grant_watch {s : State} {r : WatchRead} (h : s.watch.read = some r) :
    s.grant .watch = (s.setArbiter (.granted .watch)).startGroupCycle r.group := by
  simp only [State.grant, h]

/-- Settles O56: the choice by rank (`State.bestClaim_some`), the grant point, the grant of each claimant. -/
theorem grantsFollowThePriority : Obligations.GrantsFollowThePriority := by
  refine ⟨fun s ex => ⟨s.claims_iff, s.bestClaim_some ex, s.bestClaim_none ex⟩, fun k ex s =>
    ⟨State.arbitrateExcept_busy k ex, fun _ => State.arbitrateExcept_none k, fun d => State.arbitrateExcept_some k⟩,
    fun s => ⟨rfl, rfl, fun n => ⟨fun hm hq => ?_, fun hm hq => ?_, State.grant_transfer⟩, fun e he => ?_,
      fun r hr => State.grant_watch hr⟩⟩
  · rw [State.grant_cascade hm, if_pos hq]
  · rw [State.grant_cascade hm, if_neg (by simp [hq])]
  · rw [State.grant_engine he]
    cases hop : e.op <;> simp only [Element.group, ElementOp.firstPos, hop] <;> rfl

end Sys2Proof.Machine
end

/-! ## The cycles of a locked group (R10-R12, R74) -/
section
namespace Sys2Proof.Machine

/-! ### Bytes of a value -/

theorem byteValue_lowByte (v : Word) : byteValue (lowByte v) = v &&& 0x00FF := by
  apply BitVec.eq_of_toNat_eq
  rw [BitVec.toNat_and, show (0x00FF : Word).toNat = 2 ^ 8 - 1 from rfl, Nat.and_two_pow_sub_one_eq_mod]
  simp only [byteValue, lowByte, BitVec.toNat_setWidth, BitVec.extractLsb'_toNat, Nat.shiftRight_zero]
  omega

theorem byteValue_highByte (v : Word) : byteValue (highByte v) = v >>> 8 := by
  apply BitVec.eq_of_toNat_eq
  simp only [byteValue, highByte, BitVec.toNat_setWidth, BitVec.extractLsb'_toNat, BitVec.toNat_ushiftRight,
    Nat.shiftRight_eq_div_pow]
  have := v.isLt
  omega

theorem lowByte_byteValue (b : Byte) : lowByte (byteValue b) = b := by
  apply BitVec.eq_of_toNat_eq
  simp only [byteValue, lowByte, BitVec.toNat_setWidth, BitVec.extractLsb'_toNat, Nat.shiftRight_zero]
  have := b.isLt
  omega

/-- The value of a split read: the second cycle's byte above the first's (R10). -/
theorem wordOf_lowBytes (v w : Word) :
    wordOf (lowByte v) (lowByte w) = (w &&& 0x00FF) <<< 8 ||| (v &&& 0x00FF) := by
  apply BitVec.eq_of_getLsbD_eq
  intro i hi
  have mask (k : Nat) : (0x00FF : Word).getLsbD k = decide (k < 8) := by
    rw [show (0x00FF : Word) = BitVec.ofNat 16 (2 ^ 8 - 1) from rfl]
    simp only [BitVec.getLsbD_ofNat, Nat.testBit_two_pow_sub_one]
    by_cases h : k < 8
    · simp [h]; omega
    · simp [h]
  simp only [wordOf, lowByte, BitVec.getLsbD_append, BitVec.getLsbD_or, BitVec.getLsbD_shiftLeft, BitVec.getLsbD_and,
    BitVec.getLsbD_extractLsb', mask]
  by_cases h : i < 8
  · simp [h, hi]
  · simp [h, hi, Bool.and_comm]

theorem Width.trim_one (v : Word) : Width.trim .one v = v &&& 0x00FF := rfl

theorem Width.trim_two (v : Word) : Width.trim .two v = v := by
  simp only [Width.trim, Width.mask]
  rw [show (0xFFFF : Word) = BitVec.allOnes 16 from rfl, BitVec.and_allOnes]

theorem wrapAddress_next (sp : Space) (a : Nat) : wrapAddress sp ((a : Int) + 1) = (a + 1) % spaceSize sp := by
  unfold wrapAddress
  exact_mod_cast Int.toNat_natCast ((a + 1) % spaceSize sp)

/-! ### The step of a group, by its position -/

/-- The later cycles of a group are those of the same element. -/
structure Group.SameElement (g g' : Group) : Prop where
  space : g'.space = g.space
  address : g'.address = g.address
  width : g'.width = g.width
  op : g'.op = g.op

/-- The cycle carries the whole value: a WIDE window, or a SENSE window that answers with SWIDE (R10, R11). -/
def Group.Whole (g : Group) (swide : Bool) : Prop := g.attrs.width = .wide ∨ (g.attrs.width = .sense ∧ swide = true)

/-- The cycle carries the low byte alone: a NARROW window, or a SENSE window that answers without SWIDE (R10, R11). -/
def Group.Half (g : Group) (swide : Bool) : Prop := g.attrs.width = .narrow ∨ (g.attrs.width = .sense ∧ swide = false)

section
variable {g : Group} {swide : Bool} (lines : Word)

theorem Group.next_read1_one (swide : Bool) (hp : g.pos = .read1) (hw : g.width = .one) :
    g.next swide lines = g.readComplete (lines &&& 0x00FF) false := by
  simp only [Group.next, hp, hw, byteValue_lowByte]

theorem Group.next_read1_whole (hp : g.pos = .read1) (hw : g.width = .two) (h : g.Whole swide) :
    g.next swide lines = g.readComplete lines false := by
  rcases h with h | ⟨h, rfl⟩
  · simp only [Group.next, hp, hw, h]
  · simp only [Group.next, hp, hw, h, if_true]

theorem Group.next_read1_half (hp : g.pos = .read1) (hw : g.width = .two) (h : g.Half swide) :
    ∃ g', g.next swide lines = .more g' ∧ g.SameElement g' ∧ g'.pos = .read2 ∧ lowByte g'.old = lowByte lines := by
  refine ⟨{ g with pos := .read2, old := byteValue (lowByte lines), isSplit := true }, ?_, ⟨rfl, rfl, rfl, rfl⟩, rfl,
    lowByte_byteValue _⟩
  rcases h with h | ⟨h, rfl⟩
  · simp only [Group.next, hp, hw, h]
  · simp only [Group.next, hp, hw, h, Bool.false_eq_true, if_false]

theorem Group.next_read2 (swide : Bool) (hp : g.pos = .read2) :
    g.next swide lines = g.readComplete (wordOf (lowByte g.old) (lowByte lines)) true := by
  simp only [Group.next, hp]

theorem Group.next_write1_one (swide : Bool) (hp : g.pos = .write1) (hw : g.width = .one) :
    g.next swide lines = .finished g.old g.new := by
  simp only [Group.next, hp, hw]

theorem Group.next_write1_whole {v : Word} (hp : g.pos = .write1) (hw : g.width = .two) (ho : g.op = .write v)
    (h : g.Whole swide) : g.next swide lines = .finished 0 0 := by
  rcases h with h | ⟨h, rfl⟩
  · simp only [Group.next, hp, hw, ho, h]
  · simp only [Group.next, hp, hw, ho, h, if_true]

theorem Group.next_write1_half {v : Word} (hp : g.pos = .write1) (hw : g.width = .two) (ho : g.op = .write v)
    (h : g.Half swide) :
    ∃ g', g.next swide lines = .more g' ∧ g.SameElement g' ∧ g'.pos = .write2 ∧ g'.written = true := by
  refine ⟨{ g with pos := .write2, written := true, isSplit := true }, ?_, ⟨rfl, rfl, rfl, rfl⟩, rfl, rfl⟩
  rcases h with h | ⟨h, rfl⟩
  · simp only [Group.next, hp, hw, ho, h]
  · simp only [Group.next, hp, hw, ho, h, Bool.false_eq_true, if_false]

theorem Group.next_write1_modify_whole (swide : Bool) {x y : Word} (hp : g.pos = .write1) (hw : g.width = .two)
    (ho : g.op = .modify x y) (h : g.isSplit = false) : g.next swide lines = .finished g.old g.new := by
  simp only [Group.next, hp, hw, ho, h, Bool.false_eq_true, if_false]

theorem Group.next_write1_modify_split (swide : Bool) {x y : Word} (hp : g.pos = .write1) (hw : g.width = .two)
    (ho : g.op = .modify x y) (h : g.isSplit = true) :
    ∃ g', g.next swide lines = .more g' ∧ g.SameElement g' ∧ g'.pos = .write2 ∧ g'.written = true ∧ g'.old = g.old ∧
      g'.new = g.new := by
  refine ⟨{ g with pos := .write2, written := true }, ?_, ⟨rfl, rfl, rfl, rfl⟩, rfl, rfl, rfl, rfl⟩
  simp only [Group.next, hp, hw, ho, h, if_true]

theorem Group.next_write2 (swide : Bool) (hp : g.pos = .write2) : g.next swide lines = .finished g.old g.new := by
  simp only [Group.next, hp]

theorem Group.readComplete_read (v : Word) (b : Bool) (ho : g.op = .read) : g.readComplete v b = .finished v 0 := by
  simp only [Group.readComplete, ho]

theorem Group.readComplete_modify (v : Word) (b : Bool) {x y : Word} (ho : g.op = .modify x y) :
    ∃ g', g.readComplete v b = .more g' ∧ g.SameElement g' ∧ g'.pos = .write1 ∧ g'.old = v ∧
      g'.new = modifyValue g.width v x y ∧ g'.isSplit = b := by
  refine ⟨{ g with
    pos := .write1, old := v, new := modifyValue g.width v x y, readDone := true, isSplit := b }, ?_,
    ⟨rfl, rfl, rfl, rfl⟩, rfl, rfl, rfl, rfl⟩
  simp only [Group.readComplete, ho]

end

/-! ### The cycle of a group, by its position -/

section
variable {g : Group}

theorem Group.cycle_first (h : g.pos = .read1 ∨ g.pos = .write1) : g.cycle.address = g.address := by
  rcases h with h | h <;> simp only [Group.cycle, Group.cycleAddress, h]

/-- The second cycle of a pair goes to the address plus one within the space, on the low data lines (R1, R10). -/
theorem Group.cycle_second (h : g.pos = .read2 ∨ g.pos = .write2) :
    g.cycle.lanes = .narrow ∧ g.cycle.address = (g.address + 1) % spaceSize g.space := by
  rcases h with h | h <;>
    exact ⟨by simp only [Group.cycle, Group.lanes, h],
      by simp only [Group.cycle, Group.cycleAddress, h, wrapAddress_next]⟩

theorem Group.cycle_reads (h : g.pos = .read1 ∨ g.pos = .read2) : g.cycle.isWrite = false := by
  rcases h with h | h <;> simp only [Group.cycle, Group.writes, h]

theorem Group.cycle_writes (h : g.pos = .write1 ∨ g.pos = .write2) : g.cycle.isWrite = true := by
  rcases h with h | h <;> simp only [Group.cycle, Group.writes, h]

/-- A first write on all the data lines carries the whole value, one on the low lines its low byte (R10). -/
theorem Group.drive_write1 (h : g.pos = .write1) :
    g.cycle.drive = if g.cycle.lanes = .wide then g.writeValue else g.writeValue &&& 0x00FF := by
  simp only [Group.cycle, Group.drive, h, byteValue_lowByte]
  cases g.lanes <;> rfl

theorem Group.drive_write2 (h : g.pos = .write2) : g.cycle.drive = g.writeValue >>> 8 := by
  simp only [Group.cycle, Group.drive, h, byteValue_highByte]

theorem Group.writeValue_write {v : Word} (h : g.op = .write v) : g.writeValue = v := by
  simp only [Group.writeValue, h]

theorem Group.writeValue_modify {x y : Word} (h : g.op = .modify x y) : g.writeValue = g.new := by
  simp only [Group.writeValue, h]

theorem Group.lanes_write1_one (h : g.pos = .write1) (hw : g.width = .one) : g.cycle.lanes = .narrow := by
  simp only [Group.cycle, Group.lanes, h, hw]

theorem Group.lanes_write1_write {v : Word} (h : g.pos = .write1) (hw : g.width = .two) (ho : g.op = .write v) :
    g.cycle.lanes = if g.attrs.width = .narrow then .narrow else .wide := by
  simp only [Group.cycle, Group.lanes, h, hw, ho]
  cases g.attrs.width <;> rfl

theorem Group.lanes_write1_modify {x y : Word} (h : g.pos = .write1) (hw : g.width = .two) (ho : g.op = .modify x y) :
    g.cycle.lanes = if g.isSplit then .narrow else .wide := by
  simp only [Group.cycle, Group.lanes, h, hw, ho]

end

/-! ### The groups of R12 and R74 -/

section
variable {g : Group} {swide : Bool}

theorem Group.read_split (swide' : Bool) (lines lines' : Word) (ho : g.op = .read) (hp : g.pos = .read1)
    (hw : g.width = .two) (h : g.Half swide) :
    ∃ g', g.next swide lines = .more g' ∧ g'.cycle.isWrite = false ∧ g'.cycle.lanes = .narrow ∧
      g'.cycle.address = (g.address + 1) % spaceSize g.space ∧
      g'.next swide' lines' = .finished ((lines' &&& 0x00FF) <<< 8 ||| (lines &&& 0x00FF)) 0 := by
  obtain ⟨g', hn, same, hp', hold⟩ := g.next_read1_half lines hp hw h
  obtain ⟨lanes, address⟩ := g'.cycle_second (.inl hp')
  rw [same.address, same.space] at address
  refine ⟨g', hn, Group.cycle_reads (.inr hp'), lanes, address, ?_⟩
  rw [g'.next_read2 lines' swide' hp', Group.readComplete_read _ _ (same.op.trans ho), hold, wordOf_lowBytes]

theorem Group.write_split (swide' : Bool) (lines lines' : Word) {v : Word} (ho : g.op = .write v) (hp : g.pos = .write1)
    (hw : g.width = .two) (h : g.Half swide) :
    ∃ g', g.next swide lines = .more g' ∧ g'.cycle.isWrite = true ∧ g'.cycle.lanes = .narrow ∧
      g'.cycle.address = (g.address + 1) % spaceSize g.space ∧ g'.cycle.drive = v >>> 8 ∧ g'.written = true ∧
      ∃ x y, g'.next swide' lines' = .finished x y := by
  obtain ⟨g', hn, same, hp', written⟩ := g.next_write1_half lines hp hw ho h
  obtain ⟨lanes, address⟩ := g'.cycle_second (.inr hp')
  rw [same.address, same.space] at address
  refine ⟨g', hn, Group.cycle_writes (.inr hp'), lanes, address, ?_, written, _, _, g'.next_write2 lines' swide' hp'⟩
  rw [g'.drive_write2 hp', Group.writeValue_write (same.op.trans ho)]

theorem Group.write_cycles (swide swide' : Bool) (lines lines' : Word) {v : Word} (ho : g.op = .write v)
    (hp : g.pos = .write1) :
    g.cycle.isWrite = true ∧
    (g.width = .one → g.cycle.lanes = .narrow ∧ g.cycle.drive = v &&& 0x00FF ∧
      ∃ x y, g.next swide lines = .finished x y) ∧
    (g.width = .two →
      (g.attrs.width = .wide → g.cycle.lanes = .wide ∧ g.cycle.drive = v ∧ g.next swide lines = .finished 0 0) ∧
      (g.attrs.width = .narrow → g.cycle.lanes = .narrow ∧ g.cycle.drive = v &&& 0x00FF) ∧
      (g.attrs.width = .sense → g.cycle.lanes = .wide ∧ g.cycle.drive = v) ∧
      (g.attrs.width = .sense → swide = true → g.next swide lines = .finished 0 0) ∧
      (g.attrs.width = .narrow ∨ (g.attrs.width = .sense ∧ swide = false) →
        ∃ g', g.next swide lines = .more g' ∧ g'.cycle.isWrite = true ∧ g'.cycle.lanes = .narrow ∧
          g'.cycle.address = (g.address + 1) % spaceSize g.space ∧ g'.cycle.drive = v >>> 8 ∧ g'.written = true ∧
          ∃ x y, g'.next swide' lines' = .finished x y)) := by
  have drive := g.drive_write1 hp
  rw [Group.writeValue_write ho] at drive
  refine ⟨Group.cycle_writes (.inl hp), fun hw => ?_, fun hw => ?_⟩
  · have lanes := Group.lanes_write1_one hp hw
    rw [lanes] at drive
    exact ⟨lanes, drive, _, _, g.next_write1_one lines swide hp hw⟩
  · have lanes := Group.lanes_write1_write hp hw ho
    refine ⟨fun ha => ?_, fun ha => ?_, fun ha => ?_,
      fun ha hs => g.next_write1_whole lines hp hw ho (.inr ⟨ha, hs⟩),
      fun h => g.write_split swide' lines lines' ho hp hw h⟩
    all_goals rw [ha] at lanes; rw [lanes] at drive
    · exact ⟨lanes, drive, g.next_write1_whole lines hp hw ho (.inl ha)⟩
    · exact ⟨lanes, drive⟩
    · exact ⟨lanes, drive⟩

theorem Group.modify_one (swide swide' : Bool) (lines lines' : Word) {x y : Word} (ho : g.op = .modify x y)
    (hp : g.pos = .read1) (hw : g.width = .one) :
    ∃ g', g.next swide lines = .more g' ∧ g'.cycle.isWrite = true ∧ g'.cycle.address = g.address ∧
      g'.cycle.drive = ((lines &&& 0x00FF &&& x) ||| y) &&& 0x00FF ∧
      g'.next swide' lines' = .finished (lines &&& 0x00FF) (((lines &&& 0x00FF &&& x) ||| y) &&& 0x00FF) := by
  obtain ⟨g', hn, same, hp', hold, hnew, _⟩ := g.readComplete_modify (lines &&& 0x00FF) false ho
  rw [hw, modifyValue, Width.trim_one] at hnew
  have hw' := same.width.trans hw
  refine ⟨g', (g.next_read1_one lines swide hp hw).trans hn, Group.cycle_writes (.inl hp'),
    (Group.cycle_first (.inr hp')).trans same.address, ?_, ?_⟩
  · rw [g'.drive_write1 hp', Group.lanes_write1_one hp' hw', Group.writeValue_modify (same.op.trans ho), hnew,
      if_neg (by decide), BitVec.and_assoc, BitVec.and_self]
  · rw [g'.next_write1_one lines' swide' hp' hw', hold, hnew]

theorem Group.modify_whole (swide' : Bool) (lines lines' : Word) {x y : Word} (ho : g.op = .modify x y)
    (hp : g.pos = .read1) (hw : g.width = .two) (h : g.Whole swide) :
    ∃ g', g.next swide lines = .more g' ∧ g'.cycle.isWrite = true ∧ g'.cycle.lanes = .wide ∧
      g'.cycle.address = g.address ∧ g'.cycle.drive = (lines &&& x) ||| y ∧
      g'.next swide' lines' = .finished lines ((lines &&& x) ||| y) := by
  obtain ⟨g', hn, same, hp', hold, hnew, hsplit⟩ := g.readComplete_modify lines false ho
  rw [hw, modifyValue, Width.trim_two] at hnew
  have hw' := same.width.trans hw
  have ho' := same.op.trans ho
  have lanes := Group.lanes_write1_modify hp' hw' ho'
  rw [hsplit] at lanes
  refine ⟨g', (g.next_read1_whole lines hp hw h).trans hn, Group.cycle_writes (.inl hp'), lanes,
    (Group.cycle_first (.inr hp')).trans same.address, ?_, ?_⟩
  · rw [g'.drive_write1 hp', lanes, Group.writeValue_modify ho', hnew]
    rfl
  · rw [g'.next_write1_modify_whole lines' swide' hp' hw' ho' hsplit, hold, hnew]

/-- A Modify split as it read: the low byte of the new value, then its high byte (R74). -/
theorem Group.modify_split (swide' : Bool) (lines lines' : Word) {x y : Word} (ho : g.op = .modify x y)
    (hp : g.pos = .read1) (hw : g.width = .two) (h : g.Half swide) :
    let old : Word := (lines' &&& 0x00FF) <<< 8 ||| (lines &&& 0x00FF)
    let new : Word := (old &&& x) ||| y
    ∃ g1 g2, g.next swide lines = .more g1 ∧ g1.cycle.isWrite = false ∧ g1.cycle.lanes = .narrow ∧
      g1.cycle.address = (g.address + 1) % spaceSize g.space ∧
      g1.next swide' lines' = .more g2 ∧ g2.cycle.isWrite = true ∧ g2.cycle.lanes = .narrow ∧
      g2.cycle.address = g.address ∧ g2.cycle.drive = new &&& 0x00FF ∧
      ∀ b l, ∃ g3, g2.next b l = .more g3 ∧ g3.cycle.isWrite = true ∧ g3.cycle.lanes = .narrow ∧
        g3.cycle.address = (g.address + 1) % spaceSize g.space ∧ g3.cycle.drive = new >>> 8 ∧
        g3.written = true ∧ ∀ b' l', g3.next b' l' = .finished old new := by
  obtain ⟨g1, hn1, same1, hp1, hold1⟩ := g.next_read1_half lines hp hw h
  have ho1 := same1.op.trans ho
  have hw1 := same1.width.trans hw
  obtain ⟨g2, hn2, same2, hp2, hold2, hnew2, hsplit⟩ :=
    g1.readComplete_modify (wordOf (lowByte g1.old) (lowByte lines')) true ho1
  rw [hold1, wordOf_lowBytes] at hold2 hnew2
  rw [hw1, modifyValue, Width.trim_two] at hnew2
  have ho2 := same2.op.trans ho1
  have hw2 := same2.width.trans hw1
  have lanes2 := Group.lanes_write1_modify hp2 hw2 ho2
  rw [hsplit] at lanes2
  obtain ⟨lanes1, address1⟩ := g1.cycle_second (.inl hp1)
  rw [same1.address, same1.space] at address1
  refine ⟨g1, g2, hn1, Group.cycle_reads (.inr hp1), lanes1, address1, (g1.next_read2 lines' swide' hp1).trans hn2,
    Group.cycle_writes (.inl hp2), lanes2, ?_, ?_, fun b l => ?_⟩
  · rw [g2.cycle_first (.inr hp2), same2.address, same1.address]
  · rw [g2.drive_write1 hp2, lanes2, Group.writeValue_modify ho2, hnew2]
    rfl
  · obtain ⟨g3, hn3, same3, hp3, written, hold3, hnew3⟩ := g2.next_write1_modify_split l b hp2 hw2 ho2 hsplit
    obtain ⟨lanes3, address3⟩ := g3.cycle_second (.inr hp3)
    rw [same3.address, same3.space, same2.address, same2.space, same1.address, same1.space] at address3
    refine ⟨g3, hn3, Group.cycle_writes (.inr hp3), lanes3, address3, ?_, written, fun b' l' => ?_⟩
    · rw [g3.drive_write2 hp3, Group.writeValue_modify (same3.op.trans ho2), hnew3, hnew2]
    · rw [g3.next_write2 l' b' hp3, hold3, hold2, hnew3, hnew2]

end

/-! ### The lines that the B16 drives (R2) -/

section
variable {s : State}

theorem Cycle.phase_strobing (c : Cycle) : (c.phase == .strobe || c.phase == .held) = decide (2 ≤ c.clock) := by
  unfold Cycle.phase
  split
  · rw [decide_eq_false (by omega)]; rfl
  · rw [decide_eq_true (by omega)]; split <;> rfl

theorem State.strobing_cycle {c : Cycle} (h : s.bus.cycle = some c) : s.strobing = decide (2 ≤ c.clock) := by
  simp only [State.strobing, State.cyclePhase, h, c.phase_strobing]

theorem State.drivenData_cycle {c : Cycle} (h : s.bus.cycle = some c) :
    s.drivenData = if decide (2 ≤ c.clock) && c.isWrite then some (c.lanes, c.drive) else none := by
  simp only [State.drivenData, h, State.strobing_cycle h, Bool.and_comm]

theorem State.slotLines_idle (h : s.bus.cycle = none) :
    let d := s.slotLines
    d.address = none ∧ d.sio = false ∧ d.srd = false ∧ d.swr = false ∧ d.srefresh = false ∧ d.slast = false ∧
    (∀ m v, s.bus.master = some m → m.answer = .readServed v → d.data = some (if m.wide then .wide else .narrow, v)) ∧
    ((∀ m v, s.bus.master = some m → m.answer ≠ .readServed v) → d.data = none) := by
  simp only [State.slotLines, State.drivenData, h, Option.map_none, true_and]
  refine ⟨fun m v hm hv => ?_, fun hn => ?_⟩
  · simp only [hm, hv]
  · cases hm : s.bus.master with
    | none => rfl
    | some m =>
      cases hv : m.answer with
      | readServed v => exact absurd hv (hn m v hm)
      | _ => simp only [hv]

theorem State.slotLines_cycle {c : Cycle} (h : s.bus.cycle = some c) :
    let d := s.slotLines
    let strobe := decide (2 ≤ c.clock)
    d.address = some c.address ∧ (d.sio = true ↔ c.kind = .io) ∧
    (d.srd = true ↔ strobe = true ∧ c.isWrite = false ∧ c.kind ≠ .refresh) ∧ d.swr = (strobe && c.isWrite) ∧
    (d.srefresh = true ↔ strobe = true ∧ c.kind = .refresh) ∧ d.slast = (strobe && c.slast) ∧
    d.data = if strobe && c.isWrite then some (c.lanes, c.drive) else none := by
  simp [State.slotLines, State.drivenData_cycle h, h, State.strobing_cycle h, and_assoc]

theorem State.slotLines_master {m : MasterCycle} (h : s.bus.master = some m) :
    s.slotLines.swide = m.wide ∧
      (s.slotLines.swait = true ↔ m.strobe = true ∧ (m.answer = .readWait ∨ m.answer = .writeWait)) := by
  simp [State.slotLines, State.drivenSwide, State.drivenSwait, h]

theorem State.slotLines_no_master (h : s.bus.master = none) :
    s.slotLines.swide = false ∧ s.slotLines.swait = false := by
  simp only [State.slotLines, State.drivenSwide, State.drivenSwait, h, and_self]

theorem State.sgnt_iff (s : State) (n : Fin 4) :
    s.sgnt n = true ↔ (∃ c, s.bus.cycle = some c ∧ c.kind = .dma n) ∨ (s.channel n).state = .master := by
  unfold State.sgnt
  cases s.bus.cycle <;> simp

theorem State.slotLines_sgnt (s : State) (n : Fin 4) : s.slotLines.sgnt[n.val] = s.sgnt n :=
  Vector.getElem_ofFn n.isLt

end

/-- Settles O49: the groups by their kind and width, the constants of a cycle, the lines by the cycle in progress. -/
theorem groupsSplitByWidth : Obligations.GroupsSplitByWidth := by
  refine ⟨fun g swide swide' lines lines' => ⟨fun ho hp hw => ?_, fun ho hp hw h => ?_,
    fun ho hp hw h => g.read_split swide' lines lines' ho hp hw h,
    fun v ho hp => g.write_cycles swide swide' lines lines' ho hp,
    fun x y ho hp hw => g.modify_one swide swide' lines lines' ho hp hw,
    fun x y ho hp hw => ⟨fun h => g.modify_whole swide' lines lines' ho hp hw h,
      fun h => g.modify_split swide' lines lines' ho hp hw h⟩,
    Group.cycle_first, ?_, ?_, rfl, rfl, rfl, rfl, rfl⟩,
    fun s => ⟨State.slotLines_idle, fun c h => State.slotLines_cycle h, fun m h => State.slotLines_master h,
      State.slotLines_no_master, ?_, fun n => (s.slotLines_sgnt n).symm ▸ s.sgnt_iff n⟩⟩
  · rw [g.next_read1_one lines swide hp hw, Group.readComplete_read _ _ ho]
  · rw [g.next_read1_whole lines hp hw h, Group.readComplete_read _ _ ho]
  · cases hs : g.space <;> simp only [Group.cycle, hs]
  · cases hs : g.space <;> simp only [Group.cycle, baseLength, hs]
  · simp [State.slotLines, State.inSlotReset]

end Sys2Proof.Machine
end

/-! ## The end of a cycle (R5, R6, R10, R13, R26) -/
section
namespace Sys2Proof.Machine

variable {s : State}

/-! ### What the two commands make of the samples -/

theorem State.cycleEnd_running {c c' : Cycle} (hc : s.bus.cycle = some c) (hn : c.needsUnit = false)
    {swait : List Bool} (h : Cycle.run swait c = .running c') (swide : Bool) (lines : Word) :
    s.cycleEnd swait swide lines = s.setCycle (some c') := by
  simp only [State.cycleEnd, hc, hn, h, Bool.false_eq_true, if_false]

theorem State.cycleEnd_ended {c : Cycle} (hc : s.bus.cycle = some c) (hn : c.needsUnit = false)
    {swait : List Bool} (h : Cycle.run swait c = .ended) (swide : Bool) (lines : Word) :
    s.cycleEnd swait swide lines = s.cycleOver c (cycleOutcome s.sfault) swide lines := by
  simp only [State.cycleEnd, hc, hn, h, Bool.false_eq_true, if_false]

theorem State.readyTimeout_running {c c' : Cycle} (hc : s.bus.cycle = some c) (hn : c.needsUnit = false)
    {swait : List Bool} (h : Cycle.run swait c = .running c') : s.readyTimeout swait = s.setCycle (some c') := by
  simp only [State.readyTimeout, hc, hn, h, Bool.false_eq_true, if_false]

theorem State.readyTimeout_timedOut {c : Cycle} (hc : s.bus.cycle = some c) (hn : c.needsUnit = false)
    {swait : List Bool} (h : Cycle.run swait c = .timedOut) :
    s.readyTimeout swait = s.cycleOver c .readyTimeout false 0xFFFF := by
  simp only [State.readyTimeout, hc, hn, h, Bool.false_eq_true, if_false]

/-! ### What the end of a cycle does to its group -/

/-- The bus with the group that a cycle has ended. -/
def State.groupOver (s : State) : State := s.setBus { s.bus with cycle := none, group := none }

theorem State.cycleOver_group {c : Cycle} (hk : c.kind = .memory ∨ c.kind = .io) (o : CycleOutcome) (swide : Bool)
    (lines : Word) : s.cycleOver c o swide lines = (s.setCycle none).groupCycleEnd o swide lines := by
  rcases hk with hk | hk <;> simp only [State.cycleOver, hk]

theorem State.groupCycleEnd_more {g g' : Group} (hg : s.bus.group = some g) {swide : Bool} {lines : Word}
    (h : g.next swide lines = .more g') :
    (s.setCycle none).groupCycleEnd .ok swide lines =
      s.setBus ⟨some g'.cycle, some g', ⟨g'.space, g'.cycleAddress, g'.owner⟩, s.bus.master⟩ := by
  have hg' : (s.setCycle none).bus.group = some g := hg
  simp only [State.groupCycleEnd, hg', h]
  rfl

theorem State.groupCycleEnd_engine {g : Group} (hg : s.bus.group = some g) (hu : g.user = .engine) {e : Element}
    (he : s.engine.element = some e) {swide : Bool} {lines v1 v2 : Word} (h : g.next swide lines = .finished v1 v2) :
    (s.setCycle none).groupCycleEnd .ok swide lines = (s.groupOver.cardPartDone e v1 v2).engineGrantPoint := by
  have hg' : (s.setCycle none).bus.group = some g := hg
  have he' : ((s.setCycle none).setGroup none).engine.element = some e := he
  simp only [State.groupCycleEnd, hg', h, State.groupFinished, hu, he']
  rfl

theorem State.groupCycleEnd_watch {g : Group} (hg : s.bus.group = some g) (hu : g.user = .watch) {swide : Bool}
    {lines v1 v2 : Word} (h : g.next swide lines = .finished v1 v2) :
    (s.setCycle none).groupCycleEnd .ok swide lines = (s.groupOver.watchReadEnd (.value v1)).setArbiter .idle := by
  have hg' : (s.setCycle none).bus.group = some g := hg
  simp only [State.groupCycleEnd, hg', h, State.groupFinished, hu]
  rfl

/-- An outcome that ends a group or an element with a fault, and its kind (R6). -/
inductive CycleOutcome.Faults : CycleOutcome → FaultKind → Prop where
  | readyTimeout : Faults .readyTimeout .readyTimeout
  | channelCheck : Faults .channelCheck .channelCheck

theorem State.groupCycleEnd_fault {g : Group} (hg : s.bus.group = some g) {o : CycleOutcome} {k : FaultKind}
    (ho : o.Faults k) (swide : Bool) (lines : Word) :
    (s.setCycle none).groupCycleEnd o swide lines = (s.setCycle none).groupFailed g k := by
  have hg' : (s.setCycle none).bus.group = some g := hg
  cases ho <;> simp only [State.groupCycleEnd, hg']

theorem State.groupFailed_engine {g : Group} (hu : g.user = .engine) {e : Element} (he : s.engine.element = some e)
    (k : FaultKind) :
    (s.setCycle none).groupFailed g k =
      (s.groupOver.itemFailed e.item ⟨k, some (g.space, (g.address : Int)), g.written⟩
        g.failValues).engineGrantPoint := by
  have he' : ((s.setCycle none).setGroup none).engine.element = some e := he
  simp only [State.groupFailed, hu, he']
  rfl

theorem State.groupFailed_watch {g : Group} (hu : g.user = .watch) (k : FaultKind) :
    (s.setCycle none).groupFailed g k = (s.groupOver.watchReadEnd (.fault k)).setArbiter .idle := by
  simp only [State.groupFailed, hu]
  rfl

/-! ### The end of the engine's tenure (R26, log 6) -/

theorem State.engineGrantPoint_alone (h : s.watchClaims = false) : s.engineGrantPoint = s.setArbiter .idle := by
  have h' : (s.setArbiter .idle).watchClaims = false := h
  simp only [State.engineGrantPoint, h', Bool.false_eq_true, if_false]

theorem State.engineGrantPoint_contended (h : s.watchClaims = true) :
    s.engineGrantPoint =
      if Config.freeOrder s.free then (s.setArbiter .idle).setFree (s.free + 1)
      else ((s.setArbiter .idle).setFree (s.free + 1)).arbitrate := by
  have h' : (s.setArbiter .idle).watchClaims = true := h
  simp only [State.engineGrantPoint, h', if_true]
  rfl

/-- The end of the engine's group neither makes nor withdraws a claim of WATCH. -/
theorem State.watchClaims_groupOver {g : Group} (hg : s.bus.group = some g) (hu : g.user = .engine) :
    s.groupOver.watchClaims = s.watchClaims := by
  have before : s.groupOf .watch = false := by simp [State.groupOf, hg, hu]
  have after : s.groupOver.groupOf .watch = false := rfl
  simp only [State.watchClaims, before, after]
  rfl

/-! ### The end of a watch read (R144-R146, R150) -/

theorem State.watchReadEnd_recorded {r : WatchRead} (hr : s.watch.read = some r) (hd : r.discard = false)
    (hs : s.watch.stopping = false) (v : Reading) :
    s.watchReadEnd v = s.setWatch { s.watch with
      read := none, pass := s.watch.pass.set r.slot.val (some v), next := r.slot.val + 1 } := by
  simp only [State.watchReadEnd, hr, State.watch_setWatch, hs, hd, Bool.false_eq_true, if_false]
  rfl

theorem State.watchReadEnd_discarded {r : WatchRead} (hr : s.watch.read = some r) (hd : r.discard = true)
    (hs : s.watch.stopping = false) (v : Reading) : s.watchReadEnd v = s.setWatch { s.watch with read := none } := by
  simp only [State.watchReadEnd, hr, State.watch_setWatch, hs, hd, Bool.false_eq_true, if_false, if_true]

/-- The watch unit once a WatchStop is reached (R150). -/
def Watch.stopped (w : Watch) : Watch :=
  { w with
    state := .stopped, stopping := false, rest := none, pass := Vector.replicate 8 none, next := 0, read := none }

theorem State.watchReadEnd_stopping {r : WatchRead} (hr : s.watch.read = some r) (hs : s.watch.stopping = true)
    (v : Reading) :
    s.watchReadEnd v = (s.setWatch s.watch.stopped).finishWork .watchStop (.watchState .stopped) := by
  simp only [State.watchReadEnd, hr, State.watch_setWatch, hs, if_true]
  rfl

theorem State.finishWork_working {w : Work} {kind : Byte} {tag : Word} (h : s.link.slot = .working w kind tag)
    (b : ReplyBody) : s.finishWork w b = s.readied (kind ||| 0x80) tag b := by
  simp only [State.finishWork, h, if_true]
  rfl

theorem State.finishWork_other {w : Work} (h : ∀ kind tag, s.link.slot ≠ .working w kind tag) (b : ReplyBody) :
    s.finishWork w b = s := by
  unfold State.finishWork
  split
  · rename_i w' kind tag hw
    exact if_neg fun e : w' = w => h kind tag (e ▸ hw)
  · rfl

/-- A read whose outcome is dropped, or that a WatchStop waits for, leaves the bus free. -/
theorem State.watchReadEnd_dropped {r : WatchRead} (hr : s.watch.read = some r) (v : Reading) :
    (s.watch.stopping = false → r.discard = true →
      (s.watchReadEnd v).setArbiter .idle = (s.setWatch { s.watch with read := none }).setArbiter .idle) ∧
    (s.watch.stopping = true →
      (∀ kind tag, s.link.slot = .working .watchStop kind tag → (s.watchReadEnd v).setArbiter .idle =
        ((s.setWatch s.watch.stopped).setArbiter .idle).readied (kind ||| 0x80) tag (.watchState .stopped)) ∧
      ((∀ kind tag, s.link.slot ≠ .working .watchStop kind tag) →
        (s.watchReadEnd v).setArbiter .idle = (s.setWatch s.watch.stopped).setArbiter .idle)) := by
  refine ⟨fun hs hd => by rw [State.watchReadEnd_discarded hr hd hs], fun hs => ⟨fun kind tag hw => ?_, fun hw => ?_⟩⟩
  · rw [State.watchReadEnd_stopping hr hs, State.finishWork_working (s := s.setWatch s.watch.stopped) hw]
    rfl
  · rw [State.watchReadEnd_stopping hr hs, State.finishWork_other (s := s.setWatch s.watch.stopped) hw]

/-! ### The card part of an element -/

theorem State.cardPartDone_nothing {e : Element} (h : e.after = .nothing) (v1 v2 : Word) :
    s.cardPartDone e v1 v2 = s.elementBoundary e v1 v2 := by
  simp only [State.cardPartDone, h]

theorem State.cardPartDone_store {e : Element} {off : Nat} (h : e.after = .store off) (v1 v2 : Word) :
    s.cardPartDone e v1 v2 = (s.setElement (some { e with stage := .memoryLast, value := v1 })).setPort
      { s.port with engine := some ⟨.engine, off, e.width, .write v1⟩ } := by
  simp only [State.cardPartDone, h]
  rfl

theorem State.cardPartDone_fetch {e : Element} {off : Nat} (h : e.after = .fetch off) (v1 v2 : Word) :
    s.cardPartDone e v1 v2 = (s.setElement (some { e with stage := .memoryLast, value := v1 })).setPort
      { s.port with engine := some ⟨.engine, off, e.width, .read⟩ } := by
  simp only [State.cardPartDone, h]
  rfl

/-- The boundary of an entry's element (R60). -/
theorem State.elementBoundary_entry (s : State) {e : Element} (h : e.item = .entry) (v1 v2 : Word) :
    s.elementBoundary e v1 v2 = (s.setElement none).mapActive fun en => en.boundary v1 v2 := by
  simp only [State.elementBoundary, h]

/-- Settles O50: the group's next cycle, or the end of the engine's element or of the watch read. -/
theorem cycleEndOk : Obligations.CycleEndOk := by
  intro swait swide lines s c g hc hk hn hrun hs hg x
  have outcome {u : State} (hu : (s.setCycle none).groupCycleEnd .ok swide lines = u) :
      exec (.cycleEnd swait swide lines) s = .next u.settle := by
    have : s.cycleEnd swait swide lines = u := by
      rw [State.cycleEnd_ended hc hn hrun, State.cycleOver_group hk, hs]
      exact hu
    exact next_settle_congr this
  have engine {v1 v2 : Word} {e : Element} (h : g.next swide lines = .finished v1 v2) (hu : g.user = .engine)
      (he : s.engine.element = some e) : (s.setCycle none).groupCycleEnd .ok swide lines =
        (x.cardPartDone e v1 v2).engineGrantPoint := State.groupCycleEnd_engine hg hu he h
  have alone {v1 v2 : Word} {e : Element} (h : g.next swide lines = .finished v1 v2) (hu : g.user = .engine)
      (he : s.engine.element = some e) {y : State} (hy : x.cardPartDone e v1 v2 = y) (hw : y.watchClaims = false) :
      exec (.cycleEnd swait swide lines) s = .next (y.setArbiter .idle).settle := by
    subst hy
    exact outcome ((engine h hu he).trans (State.engineGrantPoint_alone hw))
  have claims (hu : g.user = .engine) (hw : s.watchClaims = false) : x.watchClaims = false :=
    (State.watchClaims_groupOver hg hu).trans hw
  refine ⟨fun g' h => outcome (State.groupCycleEnd_more hg h), fun v1 v2 e h hu he hi hw => ⟨fun ha => ?_,
    fun off ha => ?_, fun off ha => ?_⟩, fun v1 v2 r h hu hr hd hst => outcome ?_, fun v1 v2 e h hu he =>
    ⟨alone h hu he rfl, fun hw => outcome ((engine h hu he).trans (State.engineGrantPoint_contended hw))⟩,
    fun e v1 v2 => ⟨fun ha => State.cardPartDone_nothing ha v1 v2, fun off ha => State.cardPartDone_store ha v1 v2,
      fun off ha => State.cardPartDone_fetch ha v1 v2⟩, fun v1 v2 r h hu hr => ?_⟩
  · have boundary := (State.cardPartDone_nothing ha v1 v2).trans (x.elementBoundary_entry hi v1 v2)
    exact alone h hu he boundary (claims hu hw)
  · exact alone h hu he (State.cardPartDone_store ha v1 v2) (claims hu hw)
  · exact alone h hu he (State.cardPartDone_fetch ha v1 v2) (claims hu hw)
  · rw [State.groupCycleEnd_watch hg hu h, State.watchReadEnd_recorded (s := s.groupOver) hr hd hst]
    rfl
  · have dropped := State.watchReadEnd_dropped (s := s.groupOver) hr (.value v1)
    have watch := State.groupCycleEnd_watch hg hu h
    exact ⟨fun hst hd => outcome (watch.trans (dropped.1 hst hd)), fun hst =>
      ⟨fun kind tag hw => outcome (watch.trans ((dropped.2 hst).1 kind tag hw)),
        fun hw => outcome (watch.trans ((dropped.2 hst).2 hw))⟩⟩

/-! ### The end of a cycle with a fault (R5, R13, R62, R112, R132, R146) -/

/-- The two commands by which a cycle ends with a fault. -/
theorem exec_cycleFault {c : Cycle} (hc : s.bus.cycle = some c) (hn : c.needsUnit = false) {cmd : Instr} {k : FaultKind}
    (h : (∃ swait swide lines, cmd = .cycleEnd swait swide lines ∧ Cycle.run swait c = .ended ∧ s.sfault = true ∧
        k = .channelCheck) ∨
      ∃ swait, cmd = .readyTimeoutExpiry swait ∧ Cycle.run swait c = .timedOut ∧ k = .readyTimeout) :
    ∃ (o : CycleOutcome) (swide : Bool) (lines : Word),
      o.Faults k ∧ exec cmd s = .next (s.cycleOver c o swide lines).settle := by
  rcases h with ⟨swait, swide, lines, rfl, hrun, hs, rfl⟩ | ⟨swait, rfl, hrun, rfl⟩
  · refine ⟨.channelCheck, swide, lines, .channelCheck, ?_⟩
    have := State.cycleEnd_ended hc hn hrun swide lines
    rw [hs] at this
    exact next_settle_congr this
  · refine ⟨.readyTimeout, false, 0xFFFF, .readyTimeout, ?_⟩
    exact next_settle_congr (State.readyTimeout_timedOut hc hn hrun)

/-- The ACTIVE entry fails with its record, and `halted` is set (R62). -/
theorem State.itemFailed_entry (r : FailRecord) (values : Option (Word × Word)) :
    s.itemFailed .entry r values = (s.setEngine ⟨.idle, none⟩).setQueue { s.queue with
      entries := s.queue.entries.map fun en =>
        if en.state = .active then
          { en with
            state := .failed, timer := none, fail := some r
            result := { en.result with values := match values with | some v => some v | none => en.result.values } }
        else en
      halted := true } := rfl

theorem Group.failValues_modify {g : Group} {x y : Word} (ho : g.op = .modify x y) (hr : g.readDone = true) :
    g.failValues = some (g.old, g.new) := by
  simp only [Group.failValues, ho, hr, if_true]

theorem Group.failValues_none {g : Group} (h : (∀ x y, g.op ≠ .modify x y) ∨ g.readDone = false) :
    g.failValues = none := by
  cases ho : g.op with
  | modify x y =>
    rcases h with h | h
    · exact absurd ho (h x y)
    · simp [Group.failValues, ho, h]
  | _ => simp only [Group.failValues, ho]

/-- A DMA element that ends with a fault: the channel faults and its tenure ends (R132). -/
theorem State.cycleOver_dma_fault {c : Cycle} {n : Fin 4} (hk : c.kind = .dma n) {b : Block}
    (hb : (s.channel n).current = some b) {o : CycleOutcome} {k : FaultKind} (ho : o.Faults k) (swide : Bool)
    (lines : Word) : s.cycleOver c o swide lines = ((s.setCycle none).channelFault n k).endTenure n false := by
  have hb' : ((s.setCycle none).channel n).current = some b := hb
  cases ho <;> simp only [State.cycleOver, hk, State.dmaElementEnd, hb']

/-- A channel faults: FAULTED with the kind, its blocks kept, FAULT posted (R132, R133). -/
theorem State.channelFault_eq (s : State) (n : Fin 4) (k : FaultKind) :
    let c := s.channel n
    s.channelFault n k = (s.setChannel n { c with state := .faulted, fault := some k }).setNotices
      (postTo s.notices (.channel n) (.channel ⟨n, .fault, c.blocksDone, .faulted, c.overrun, c.starved, c.protectHit,
        some k, match c.current with | some b => b.count - b.done | none => 0⟩)) := by
  simp only [State.channelFault, State.postChannel, State.channel_setChannel_same, reduceCtorEq, false_and, if_false,
    if_true, State.setChannel_setChannel]
  rfl

/-- Settles O51: the faults of a group (engine, watch) and of a DMA element. -/
theorem cycleFaultsEndTheGroup : Obligations.CycleFaultsEndTheGroup := by
  refine ⟨fun s c hc hn => ⟨fun swait swide lines c' hrun => ⟨?_, ?_⟩, fun g k cmd hg hk hcmd => ?_⟩,
    fun g => ⟨fun x y => Group.failValues_modify, Group.failValues_none⟩, fun s c n b k cmd hc hn hk hb hcmd => ?_,
    State.channelFault_eq⟩
  · exact next_settle_congr (State.cycleEnd_running hc hn hrun swide lines)
  · exact next_settle_congr (State.readyTimeout_running hc hn hrun)
  · intro x
    obtain ⟨o, swide, lines, ho, hexec⟩ := exec_cycleFault hc hn hcmd
    rw [State.cycleOver_group hk, State.groupCycleEnd_fault hg ho] at hexec
    have outcome {u : State} (hu : (s.setCycle none).groupFailed g k = u) : exec cmd s = .next u.settle := hu ▸ hexec
    refine ⟨fun e hu he hi hw => outcome ?_, fun r hu hr hd hst => outcome ?_, fun e hu he => ⟨fun hw => outcome ?_,
      fun hw => outcome ?_⟩, fun r hu hr => ?_⟩
    · have hw' : x.watchClaims = false := (State.watchClaims_groupOver hg hu).trans hw
      rw [State.groupFailed_engine hu he, hi, State.itemFailed_entry]
      exact State.engineGrantPoint_alone hw'
    · rw [State.groupFailed_watch hu, State.watchReadEnd_recorded (s := s.groupOver) hr hd hst]
      rfl
    · exact (State.groupFailed_engine hu he k).trans (State.engineGrantPoint_alone hw)
    · exact (State.groupFailed_engine hu he k).trans (State.engineGrantPoint_contended hw)
    · have dropped := State.watchReadEnd_dropped (s := s.groupOver) hr (.fault k)
      have watch := State.groupFailed_watch (s := s) hu k
      exact ⟨fun hst hd => outcome (watch.trans (dropped.1 hst hd)), fun hst =>
        ⟨fun kind tag hw => outcome (watch.trans ((dropped.2 hst).1 kind tag hw)),
          fun hw => outcome (watch.trans ((dropped.2 hst).2 hw))⟩⟩
  · obtain ⟨o, swide, lines, ho, hexec⟩ := exec_cycleFault hc hn hcmd
    rw [State.cycleOver_dma_fault hk hb ho] at hexec
    exact hexec

end Sys2Proof.Machine
end

/-! ## The refresh generator (R32-R34) -/
section
namespace Sys2Proof.Machine

variable {s : State}

theorem boolOf_flag {c : Byte} (h : c.toNat ≤ 1) : boolOf c = some (decide (c = 1)) := by
  refine boolOf_some.mpr (BitVec.eq_of_toNat_eq ?_)
  by_cases hc : c = 1
  · simp [hc, boolByte]
  · have ne : c.toNat ≠ 1 := fun e => hc (BitVec.eq_of_toNat_eq e)
    have zero : c.toNat = 0 := by omega
    rw [zero, decide_eq_false hc]
    rfl

theorem boolOf_no_flag {c : Byte} (h : 2 ≤ c.toNat) : boolOf c = none := by
  refine Option.eq_none_iff_forall_ne_some.mpr fun x hx => ?_
  rw [boolOf_some.mp hx] at h
  cases x <;> simp [boolByte] at h

/-- A REFRESH_SET is answered by the outcome of its checks. -/
theorem exec_refreshSet (h : s.Listening) (tag : Word) (p c : Byte) {x : State} {st : Status} {b : ReplyBody}
    (hx : x.link = s.link) (hs : s.takeRefreshSet tag p c [] = x.setSlot (.ready ⟨0xA0, st, tag, b⟩)) :
    exec (.refreshSet tag p c []) s = .next (x.replied ⟨0xA0, st, tag, b⟩) :=
  congrArg _ (h.answered ⟨tag, .refreshSet p c, []⟩ (HostRequest.length_small (by simp [RequestBody.size])) x hx _ hs)

theorem takeRefreshSet_refused (tag : Word) {p c : Byte} (h : (1 ≤ p.toNat ∧ p.toNat ≤ 3) ∨ 2 ≤ c.toNat) :
    s.takeRefreshSet tag p c [] = s.setSlot (.ready ⟨0xA0, .badField, tag, .none⟩) := by
  simp only [State.takeRefreshSet, State.noData, if_true]
  by_cases hc : 2 ≤ c.toNat
  · rw [boolOf_no_flag hc]
    rfl
  · rw [boolOf_flag (by omega)]
    exact if_pos (h.resolve_right hc)

theorem takeRefreshSet_taken (tag : Word) {p c : Byte} (hp : p.toNat = 0 ∨ 4 ≤ p.toNat) (hc : c.toNat ≤ 1) :
    s.takeRefreshSet tag p c [] =
      (s.setRefresh (s.refresh.set p.toNat (decide (c = 1)))).setSlot
        (.ready ⟨0xA0, .ok, tag, .refresh p.toNat s.refresh.late⟩) := by
  simp only [State.takeRefreshSet, State.noData, if_true, boolOf_flag hc]
  exact if_neg (by omega)

/-- A new period restarts the timer and keeps the pending flag (R34). -/
theorem Refresh.set_period (r : Refresh) {period : Nat} (h : period ≠ 0) (c : Byte) :
    r.set period (decide (c = 1)) = ⟨period, some period, r.pending, r.row, if c = 1 then 0 else r.late⟩ := by
  simp only [Refresh.set, if_neg h, decide_eq_true_eq]

/-- A period of 0 stops the generator (R34). -/
theorem Refresh.set_stopped (r : Refresh) (c : Byte) :
    r.set 0 (decide (c = 1)) = ⟨0, none, false, r.row, if c = 1 then 0 else r.late⟩ := by
  simp only [Refresh.set, if_true, decide_eq_true_eq]

/-- Settles O25: the refusals, then the generator by the new period. -/
theorem refreshSetSetsTheGenerator : Obligations.RefreshSetSetsTheGenerator := by
  intro tag p c s h
  refine ⟨fun hn => exec_refreshSet h tag p c rfl (takeRefreshSet_refused tag hn), fun hp hc => ?_, fun hp hc => ?_⟩
  · refine exec_refreshSet h tag p c rfl ?_
    rw [takeRefreshSet_taken tag (.inr hp) hc, Refresh.set_period _ (by omega)]
  · subst hp
    refine exec_refreshSet h tag 0 c rfl ?_
    rw [takeRefreshSet_taken tag (.inl rfl) hc]
    exact congrArg (fun r => (s.setRefresh r).setSlot _) (s.refresh.set_stopped c)

theorem State.refreshExpiry_stopped (h : s.refresh.timer = none) : s.refreshExpiry = s := by
  simp only [State.refreshExpiry, h]

/-- An expiry of the running timer, by the pending flag it finds (R32, R33). -/
theorem State.refreshExpiry_running (h : s.refresh.timer ≠ none) :
    s.refreshExpiry =
      if s.refresh.pending then
        let late := addCount s.refresh.late 1
        (s.setRefresh { s.refresh with timer := some s.refresh.period, late := late }).post .refresh (.refresh late)
      else s.setRefresh { s.refresh with timer := some s.refresh.period, pending := true } := by
  obtain ⟨d, hd⟩ := Option.ne_none_iff_exists'.mp h
  simp only [State.refreshExpiry, hd]

/-- Settles O26: a stopped timer, then the running one by the pending flag. -/
theorem refreshTimerExpires : Obligations.RefreshTimerExpires := by
  refine fun s => ⟨fun ht => next_settle_congr (State.refreshExpiry_stopped ht), fun ht hp => ?_, fun ht hp => ?_⟩
  · exact next_settle_congr ((State.refreshExpiry_running ht).trans (if_neg (by simp [hp])))
  · exact next_settle_congr ((State.refreshExpiry_running ht).trans (if_pos hp))

end Sys2Proof.Machine
end

/-! ## The strobes of a bus master and HANDBACK (R30, R42) -/
section
namespace Sys2Proof.Machine

variable {s : State}

/-- The cycle of a master whose strobe is released is over. -/
theorem State.masterStrobeRelease_strobed {m : MasterCycle} (hm : s.bus.master = some m) (hs : m.strobe = true) :
    s.masterStrobeRelease = s.dropMaster.handbackEnd := by
  simp only [State.masterStrobeRelease, hm, hs, if_true]

theorem State.handbackEnd_handback {n : Fin 4} (h : s.arbiter = .handback n) : s.handbackEnd = s.setArbiter .idle := by
  simp only [State.handbackEnd, h]

theorem State.handbackEnd_other (h : ∀ n, s.arbiter ≠ .handback n) : s.handbackEnd = s := by
  cases ha : s.arbiter with
  | handback n => exact absurd ha (h n)
  | _ => simp only [State.handbackEnd, ha]

theorem State.handbackTimeout_handback {n : Fin 4} (h : s.arbiter = .handback n) :
    s.handbackTimeout = (s.setPort s.port.dropMasterStore).dropMaster.setArbiter .idle := by
  have h' : (s.setPort s.port.dropMasterStore).dropMaster.arbiter = .handback n := h
  simp only [State.handbackTimeout, h, State.handbackEnd_handback h']

theorem State.handbackTimeout_other (h : ∀ n, s.arbiter ≠ .handback n) : s.handbackTimeout = s := by
  cases ha : s.arbiter with
  | handback n => exact absurd ha (h n)
  | _ => simp only [State.handbackTimeout, ha]

theorem State.masterStrobeAssert_write {m : MasterCycle} (hm : s.bus.master = some m) (hs : m.strobe = false) {a : Nat}
    (ha : m.answer = .writeIdle a) (lines : Word) :
    let w : Width := if m.wide then .two else .one
    s.masterStrobeAssert lines =
      (s.setMaster (some { m with strobe := true, answer := .writeWait })).setPort
        { s.port with bus := s.port.bus ++ [⟨.masterStore, a, w, .write (lines &&& w.mask)⟩] } := by
  simp only [State.masterStrobeAssert, hm, hs, ha]
  rfl

theorem State.masterStrobeAssert_other {m : MasterCycle} (hm : s.bus.master = some m) (hs : m.strobe = false)
    (ha : ∀ a, m.answer ≠ .writeIdle a) (lines : Word) :
    s.masterStrobeAssert lines = s.setMaster (some { m with strobe := true }) := by
  cases hw : m.answer with
  | writeIdle a => exact absurd hw (ha a)
  | _ => simp only [State.masterStrobeAssert, hm, hs, hw]; rfl

theorem Port.dropMasterStore_bus (p : Port) : ∀ u ∈ p.dropMasterStore.bus, u.requester ≠ .masterStore := by
  intro u hu
  simpa using (List.mem_filter.mp hu).2

/-- A store whose turn runs as the master goes ends its turn as a read without an owner. -/
theorem State.turn_dropMasterStore {u : MemUnit} (h : s.port.turn = some u) (hu : u.requester = .masterStore) :
    (s.setPort s.port.dropMasterStore).dropMaster.port.turn = some { u with requester := .orphan, op := .read } := by
  have hd : (s.setPort s.port.dropMasterStore).port.turn = some { u with requester := .orphan, op := .read } := by
    simp only [State.port_setPort, Port.dropMasterStore, h, Option.map_some, hu, if_true]
  rw [State.dropMaster_eq]
  simp only [State.port_setPort] at hd ⊢
  simp only [hd, Option.map_some, reduceCtorEq, or_self, if_false]

/-- A turn that reads without an owner leaves base memory as it was. -/
theorem State.mem_memoryTurnEnd_orphan {u : MemUnit} (h : s.port.turn = some u) (hr : u.requester = .orphan)
    (ho : u.op = .read) : s.memoryTurnEnd.mem = s.mem := by
  simp only [State.memoryTurnEnd, State.unitServed, MemUnit.serve, h, hr, ho]
  rfl

/-- Settles O55: each strobe by what the master's cycle and the arbiter are, then what is left of a store. -/
theorem masterStrobesAndHandback : Obligations.MasterStrobesAndHandback := by
  refine fun lines s => ⟨fun hm => ⟨next_settle_congr ?_, next_settle_congr ?_⟩,
    fun m hm => ⟨fun a hs ha => next_settle_congr (State.masterStrobeAssert_write hm hs ha lines),
      fun hs ha => next_settle_congr (State.masterStrobeAssert_other hm hs ha lines),
      fun n hs ha => next_settle_congr ((State.masterStrobeRelease_strobed hm hs).trans
        (State.handbackEnd_handback (s := s.dropMaster) ha)),
      fun hs ha => next_settle_congr ((State.masterStrobeRelease_strobed hm hs).trans
        (State.handbackEnd_other (s := s.dropMaster) ha))⟩,
    fun n ha => ⟨next_settle_congr (State.handbackTimeout_handback ha), s.port.dropMasterStore_bus⟩,
    fun ha => next_settle_congr (State.handbackTimeout_other ha), rfl, fun u => State.turn_dropMasterStore,
    fun u hu hr ho => ⟨_, rfl, (State.mem_settle _).trans (State.mem_memoryTurnEnd_orphan hu hr ho)⟩⟩
  · simp only [State.masterStrobeAssert, hm]
  · simp only [State.masterStrobeRelease, hm]

end Sys2Proof.Machine
end

/-! ## The end of a refresh cycle and of a DMA element (R25, R27-R29, R127-R132, R138) -/
section
namespace Sys2Proof.Machine

variable {s : State} {n : Fin 4}

/-! ### The end of the cycle -/

theorem State.refreshCycleEnd_granted (h : s.arbiter = .granted .refresh) :
    s.refreshCycleEnd = (s.setRefresh { s.refresh with row := s.refresh.row + 1 }).setArbiter .idle := by
  simp only [State.refreshCycleEnd, State.arbiter_setRefresh, h]

/-- An inserted refresh gives the bus back to its channel (R29). -/
theorem State.refreshCycleEnd_inserted (h : s.arbiter = .insertedRefresh n) :
    s.refreshCycleEnd =
      ((s.setRefresh { s.refresh with row := s.refresh.row + 1 }).setArbiter (.granted (.channel n))).dmaBoundary n
        false := by
  simp only [State.refreshCycleEnd, State.arbiter_setRefresh, h]

theorem State.cycleOver_refresh {c : Cycle} (hk : c.kind = .refresh) (o : CycleOutcome) (swide : Bool) (lines : Word) :
    s.cycleOver c o swide lines = (s.setCycle none).refreshCycleEnd := by
  simp only [State.cycleOver, hk]

theorem State.cycleOver_dma {c : Cycle} (hk : c.kind = .dma n) (o : CycleOutcome) (swide : Bool) (lines : Word) :
    s.cycleOver c o swide lines = (s.setCycle none).dmaElementEnd n o lines := by
  simp only [State.cycleOver, hk]

/-- The store unit of a CARD_TO_MEMORY element is requested (R129). -/
def State.elementStored (s : State) (n : Fin 4) (b : Block) (lines : Word) : State :=
  let cfg := (s.channel n).config
  if cfg.direction = .cardToMemory then
    s.setPort { s.port with
      bus := s.port.bus ++ [⟨.dmaStore n, b.offset.toNat, cfg.width, .write (lines &&& cfg.width.mask)⟩] }
  else s

/-- The block of a channel advances as its element ends OK, its store unit requested (R129). -/
def State.elementMoved (s : State) (n : Fin 4) (b : Block) (lines : Word) : State :=
  (s.elementStored n b lines).setChannel n
    { s.channel n with current := some (b.advance (s.channel n).config.width) }

/-- An element that ends OK: its terminal count and the engine's choice if it completes its block, then the boundary. -/
theorem State.dmaElementEnd_ok {b : Block} (hb : (s.channel n).current = some b) (lines : Word) :
    s.dmaElementEnd n .ok lines =
      if b.done + 1 = b.count then
        (State.engineChoose engineFuel
          ((s.elementMoved n b lines).terminalCount n (b.advance (s.channel n).config.width))).dmaBoundary n
          (s.channel n).staged.isNone
      else (s.elementMoved n b lines).dmaBoundary n false := by
  simp only [State.dmaElementEnd, hb]
  rfl

/-! ### The boundary of a tenure (R27, R28, R29) -/

section
variable {ended : Bool}

theorem State.dmaBoundary_single (h : (s.channel n).config.mode = .single) :
    s.dmaBoundary n ended = s.endTenure n true := if_pos h

theorem State.dmaBoundary_stops (hm : (s.channel n).config.mode ≠ .single)
    (h : (s.channel n).quiescing = true ∨ (s.channel n).stopped = true) :
    s.dmaBoundary n ended = s.endTenure n false := (if_neg hm).trans (if_pos h)

/-- Past the checks of the mode and of a stop, the boundary goes by the block and by SREQ (R28). -/
theorem State.dmaBoundary_goes (hm : (s.channel n).config.mode ≠ .single)
    (h : ¬ ((s.channel n).quiescing = true ∨ (s.channel n).stopped = true)) :
    s.dmaBoundary n ended =
      if ended then s.endReloadTenure n
      else if (s.channel n).config.mode = .demand ∧ (s.channel n).sreq = false then s.endTenure n false
      else if s.refresh.pending then s.startRefresh (.insertedRefresh n)
      else s.dmaElementStart n := (if_neg hm).trans (if_neg h)

end

theorem State.otherClaim_iff (s : State) (n : Fin 4) :
    s.otherClaim n = true ↔ ∃ d, d ≠ .channel n ∧ s.claims d = true := by
  simp only [State.otherClaim, List.any_eq_true, mem_claimants, true_and, Bool.and_eq_true, bne_iff_ne, and_comm]

theorem State.endReloadTenure_alone (h : s.otherClaim n = false) : s.endReloadTenure n = s.endTenure n false := by
  simp only [State.endReloadTenure, h, Bool.false_eq_true, if_false]

theorem State.endReloadTenure_contended (h : s.otherClaim n = true) :
    s.endReloadTenure n = (s.setFree (s.free + 1)).endTenure n (!Config.freeOrder s.free) := by
  simp only [State.endReloadTenure, h, if_true]
  rfl

/-! ### The end of a tenure (R127, R131, R138) -/

/-- The state that the end of its tenure leaves a channel in. -/
def Channel.rested (c : Channel) : ChannelState :=
  if c.state = .faulted then .faulted else if c.current.isSome then .ready else .idle

theorem Channel.rested_cases (c : Channel) : c.rested = .faulted ∨ c.rested = .ready ∨ c.rested = .idle := by
  unfold Channel.rested
  split
  · exact .inl rfl
  · split
    · exact .inr (.inl rfl)
    · exact .inr (.inr rfl)

/-- A channel as its tenure ends. -/
def Channel.atRest (c : Channel) : Channel := { c with state := c.rested, stopped := false }

theorem Channel.quiesced_atRest (c : Channel) : c.atRest.quiesced = .idle := by
  rcases c.rested_cases with hr | hr | hr <;> simp only [Channel.atRest, Channel.quiesced, hr]

/-- The grant point at the end of a tenure; the channel may be shut out of it (R27). -/
def State.tenureGrantPoint (s : State) (n : Fin 4) (shut : Bool) : State :=
  State.arbitrateExcept arbiterFuel (if shut then some (.channel n) else none) (s.setArbiter .idle)

theorem State.endTenure_eq (s : State) (n : Fin 4) (shut : Bool) :
    let rest := s.setChannel n (s.channel n).atRest
    s.endTenure n shut = (if (s.channel n).quiescing then rest.channelStop n else rest).tenureGrantPoint n shut := rfl

theorem State.endTenure_rests (shut : Bool) (h : (s.channel n).quiescing = false) :
    s.endTenure n shut = (s.setChannel n (s.channel n).atRest).tenureGrantPoint n shut := by
  rw [State.endTenure_eq, if_neg (by simp [h])]

/-- A quiesce that finds a tenure at its end leaves the channel cleared and IDLE, and is answered (R138). -/
theorem State.endTenure_quiesced (shut : Bool) (h : (s.channel n).quiescing = true) :
    s.endTenure n shut =
      ((s.setChannel n { (s.channel n).cleared with state := .idle }).finishWork (.quiesce n)
        (.channelState .idle)).tenureGrantPoint n shut := by
  rw [State.endTenure_eq, if_pos h]
  simp only [State.channelStop, State.channel_setChannel_same, State.setChannel_setChannel, Channel.quiesced_atRest]
  rfl

/-! ### The start of an element (R127, R128) -/

theorem State.dmaElementStart_none (h : (s.channel n).current = none) :
    s.dmaElementStart n = (s.setChannel n { s.channel n with state := .idle }).setArbiter .idle := by
  simp only [State.dmaElementStart, h]

theorem State.dmaElementStart_refused {b : Block} (hb : (s.channel n).current = some b) {k : FaultKind}
    (h : dmaRefusal s.windows (s.channel n).config b = some k) :
    s.dmaElementStart n = (s.channelFault n k).setArbiter .idle := by
  simp only [State.dmaElementStart, hb, h]

/-- The cycle of an element that its checks pass, with its record; a MEMORY_TO_CARD element requests its read unit. -/
theorem State.dmaElementStart_starts {b : Block} (hb : (s.channel n).current = some b)
    (h : dmaRefusal s.windows (s.channel n).config b = none) :
    let c := s.channel n
    let t := (s.setChannel n { c with stopped := false }).setBus { s.bus with
      cycle := some (dmaCycle n c.config b), record := ⟨.memory, b.offset.toNat, .channel n⟩ }
    s.dmaElementStart n =
      if c.config.direction = .memoryToCard then
        t.setPort { s.port with bus := s.port.bus ++ [⟨.dmaRead n, b.offset.toNat, c.config.width, .read⟩] }
      else t := by
  simp only [State.dmaElementStart, hb, h]
  rfl

/-- Settles O52: the cycle's end by its kind, then each clause by the lemma of its operation. -/
theorem cycleEndOfRefreshAndDma : Obligations.CycleEndOfRefreshAndDma := by
  refine ⟨fun swait swide lines s c hc hn hrun => ?_, fun s n ended => ⟨State.dmaBoundary_single, fun hm =>
    ⟨State.dmaBoundary_stops hm, fun hs he => ?_, fun hs he => ?_⟩⟩, fun s n => ⟨fun h => ?_, fun h => ?_⟩,
    fun s n shut => ?_, fun s n => ⟨State.dmaElementStart_none, fun b hb =>
      ⟨fun k => State.dmaElementStart_refused hb, fun h => ?_⟩⟩⟩
  · intro x
    have outcome {u : State} (hu : s.cycleOver c (cycleOutcome s.sfault) swide lines = u) :
        exec (.cycleEnd swait swide lines) s = .next u.settle :=
      next_settle_congr ((State.cycleEnd_ended hc hn hrun swide lines).trans hu)
    refine ⟨fun hk ha => outcome ?_, fun n hk ha => outcome ?_, fun n b hk hs hb => ?_⟩
    · exact (State.cycleOver_refresh hk ..).trans (State.refreshCycleEnd_granted (s := x) ha)
    · exact (State.cycleOver_refresh hk ..).trans (State.refreshCycleEnd_inserted (s := x) ha)
    · have cycle := (State.cycleOver_dma (s := s) hk .ok swide lines).trans
        (State.dmaElementEnd_ok (s := x) (n := n) hb lines)
      rw [hs] at outcome
      exact ⟨fun hd => outcome (cycle.trans (if_neg hd)), fun hd => outcome (cycle.trans (if_pos hd))⟩
  · exact (State.dmaBoundary_goes hm hs).trans (if_pos he)
  · have goes := (State.dmaBoundary_goes (ended := ended) hm hs).trans (if_neg (by simp [he]))
    refine ⟨fun hd => goes.trans (if_pos hd), fun hd hp => goes.trans ((if_neg hd).trans (if_pos hp)), fun hd hp => ?_⟩
    exact goes.trans ((if_neg hd).trans (if_neg (by simp [hp])))
  · refine State.endReloadTenure_alone (Bool.eq_false_iff.mpr fun ho => ?_)
    obtain ⟨d, hd, hcl⟩ := (s.otherClaim_iff n).mp ho
    rw [h d hd] at hcl
    cases hcl
  · exact State.endReloadTenure_contended ((s.otherClaim_iff n).mpr h)
  · intro c st grantPoint cleared
    have rested : c.rested = st := by
      simp only [Channel.rested, st]
      cases c.current <;> rfl
    refine ⟨fun hq => rested ▸ State.endTenure_rests shut hq, fun hq => ⟨fun kind tag hw => ?_, fun hw => ?_⟩⟩
    · rw [State.endTenure_quiesced shut hq, State.finishWork_working (s := s.setChannel n _) hw]
      rfl
    · rw [State.endTenure_quiesced shut hq, State.finishWork_other (s := s.setChannel n _) hw]
      rfl
  · exact ⟨fun hd => (State.dmaElementStart_starts hb h).trans (if_neg hd),
      fun hd => (State.dmaElementStart_starts hb h).trans (if_pos hd)⟩

end Sys2Proof.Machine
end

/-! ## The settling of the blocks (R51, R59-R62, R66, R109, R139, R152) -/
section
namespace Sys2Proof.Machine

variable {s : State}

/-! ### The engine's choice (R59) -/

theorem State.engineChoose_rests (k : Nat) (h : s.engineChoice = none) :
    State.engineChoose (k + 1) s = s.engineRest := by
  simp only [State.engineChoose, h]

theorem State.engineChoose_chooses (k : Nat) {t : State} (h : s.engineChoice = some t) :
    State.engineChoose (k + 1) s = State.engineChoose k t := by
  simp only [State.engineChoose, h]

theorem State.engineChoice_element {e : Element} (h : s.engine.element = some e) : s.engineChoice = none := by
  simp only [State.engineChoice, h]

theorem State.engineRest_element {e : Element} (h : s.engine.element = some e) : s.engineRest = s := by
  simp only [State.engineRest, h]

theorem State.engineRest_action {n : Fin 8} (h : s.engine = ⟨.action n, none⟩) : s.engineRest = s := by
  simp only [State.engineRest, h]

/-- An action between its reads waits for its interval, then goes on (R101). -/
theorem State.engineChoice_action {n : Fin 8} (h : s.engine = ⟨.action n, none⟩) :
    s.engineChoice = if (s.line n).interval.isSome then none else some (s.beginAction n) := by
  simp only [State.engineChoice, h]

theorem State.beginAction_some {n : Fin 8} {op : Op} (h : (s.line n).action = some op) :
    s.beginAction n = s.beginElement (.line n) (.line n) op (s.line n).progress := by
  simp only [State.beginAction, h]

/-- The engine has no element in flight and no action in hand. -/
def State.EngineFree (s : State) : Prop := s.engine = ⟨.idle, none⟩ ∨ s.engine = ⟨.entry, none⟩

theorem State.EngineFree.rest (h : s.EngineFree) : s.engineRest = s.setEngine ⟨.idle, none⟩ := by
  rcases h with h | h <;> simp only [State.engineRest, State.setEngineState, h]

theorem State.EngineFree.line (h : s.EngineFree) {n : Fin 8} (hp : s.firstPending = some n) :
    s.engineChoice = some (s.takePending n) := by
  rcases h with h | h <;> simp only [State.engineChoice, h, hp]

theorem State.EngineFree.active (h : s.EngineFree) (hp : s.firstPending = none) {e : Entry}
    (ha : s.queue.active = some e) :
    s.engineChoice =
      if e.runnable && !s.queue.paused then
        some ((s.setEngine ⟨.entry, none⟩).beginElement .entry (.queue e.tag) e.op e.progress)
      else none := by
  rcases h with h | h <;> simp only [State.engineChoice, State.setEngineState, h, hp, ha]

theorem State.EngineFree.queue (h : s.EngineFree) (hp : s.firstPending = none) (ha : s.queue.active = none) :
    s.engineChoice = if s.queue.paused || s.queue.halted then none else s.queue.oldestQueued.map s.activate := by
  rcases h with h | h <;> simp only [State.engineChoice, h, hp, ha] <;> cases s.queue.oldestQueued <;> rfl

/-! ### The lowest PENDING line that has an action (R59, R109) -/

theorem State.firstPending_some {n : Fin 8} {op : Op} (hn : (s.line n).state = .pending)
    (ha : (s.line n).action = some op)
    (h : ∀ m, m < n → (s.line m).state = .pending → (s.line m).action = none) : s.firstPending = some n := by
  refine (find?_eq_some_iff_least Fin.val (List.pairwise_lt_finRange 8) _ n).mpr
    ⟨List.mem_finRange n, by simp [hn, ha], fun m _ hm => ?_⟩
  simpa using h m hm

theorem State.firstPending_none (h : ∀ m, (s.line m).state = .pending → (s.line m).action = none) :
    s.firstPending = none :=
  List.find?_eq_none.mpr fun m _ => by simpa using h m

theorem State.EngineFree.takePending (h : s.EngineFree) {n : Fin 8} {op : Op} (ha : (s.line n).action = some op) :
    s.takePending n = (s.setLine n { s.line n with
      state := .acting, progress := op.start, result := Gathered.empty, interval := none }).setEngine
        ⟨.action n, none⟩ := by
  have element : s.engine.element = none := by rcases h with h | h <;> rw [h]
  simp only [State.takePending, ha, State.setEngineState, State.takeLine, State.setLine, State.engine_setLines, element]

/-! ### The ACTIVE entry and the oldest QUEUED one (R51, R59, R63, R64, R66) -/

theorem Entry.runnable_iff (e : Entry) :
    e.runnable = true ↔ e.timer = none ∧ e.cancel = false ∧ e.op.cardSide ≠ none := by
  simp [Entry.runnable, and_assoc, Option.isSome_iff_ne_none]

theorem Queue.oldestQueued_none {q : Queue} (h : ∀ e ∈ q.entries, e.state ≠ .queued) : q.oldestQueued = none :=
  List.find?_eq_none.mpr fun e he => by simpa using h e he

theorem Queue.oldestQueued_some {q : Queue} {xs ys : List Entry} {e : Entry} (hq : q.entries = xs ++ e :: ys)
    (hx : ∀ x ∈ xs, x.state ≠ .queued) (he : e.state = .queued) : q.oldestQueued = some e :=
  List.find?_eq_some_iff_append.mpr ⟨by simp [he], xs, ys, hq, fun x h => by simpa using hx x h⟩

theorem activateFirst_append {xs : List Entry} (ys : List Entry) {e : Entry} (hx : ∀ x ∈ xs, x.state ≠ .queued)
    (he : e.state = .queued) :
    activateFirst (xs ++ e :: ys) = xs ++ { e with state := .active, timer := e.op.wait } :: ys := by
  induction xs with
  | nil => exact if_pos he
  | cons x xs ih =>
    rw [List.cons_append, activateFirst, if_neg (hx x (List.mem_cons_self ..)),
      ih fun y hy => hx y (List.mem_cons_of_mem _ hy), List.cons_append]

/-- The queue with its oldest QUEUED entry ACTIVE. -/
def State.withFirstActive (s : State) : State :=
  s.setQueue { s.queue with entries := activateFirst s.queue.entries }

theorem State.activate_plain {e : Entry} (h : ∀ d, e.op ≠ .slotReset d) : s.activate e = s.withFirstActive := by
  cases ho : e.op with
  | slotReset d => exact absurd ho (h d)
  | _ => simp only [State.activate, State.withFirstActive, ho]

theorem State.activate_slotReset {e : Entry} {d : Nat} (h : e.op = .slotReset d) :
    s.activate e = s.withFirstActive.sresetAssert := by
  simp only [State.activate, State.withFirstActive, h]

/-! ### The start of an element (R60, R62, R80, R81) -/

section
variable {item : WorkItem} {owner : CycleOwner} {op : Op} {p : Progress} {e : Element}

theorem State.beginElement_refused {r : FailRecord} (h : planElement s.windows item owner op p = some (.refuse r)) :
    s.beginElement item owner op p = s.itemFailed item r none := by
  simp only [State.beginElement, h]

theorem State.beginElement_starts (h : planElement s.windows item owner op p = some (.start e)) :
    s.beginElement item owner op p = s.startElement e := by
  simp only [State.beginElement, h]

theorem State.startElement_memoryFirst {off : Nat} (h : e.stage = .memoryFirst off) :
    s.startElement e = (s.setElement (some e)).engineUnit off e.width .read := by
  simp only [State.startElement, h]

theorem State.startElement_card (h : e.stage = .card) (ho : e.attrs.owner ≠ .baseMemory) :
    s.startElement e = s.setElement (some e) := by
  simp only [State.startElement, h, State.startCardPart]
  cases hw : e.attrs.owner with
  | baseMemory => exact absurd hw ho
  | _ => rfl

theorem State.startElement_baseMemory (h : e.stage = .card) (ho : e.attrs.owner = .baseMemory) :
    s.startElement e = (s.setElement (some e)).engineUnit e.address e.width e.op.unitOp := by
  simp only [State.startElement, h, State.startCardPart, ho]

end

/-! ### SRESET asserted (R35, R139, R152) -/

/-- SRESET asserted, as the channels are reached by it. -/
def State.sresetChannels (s : State) : State :=
  (List.finRange 4).foldl State.channelSresetAssert (s.setSreset .slotReset)

theorem State.sresetChannels_reached (s : State) :
    ChannelsReached Channel.sresetTaken (List.finRange 4) (s.setSreset .slotReset) s.sresetChannels :=
  State.foldl_channels (fun _ => True) _ _ (fun _ _ _ => trivial) (fun s n _ => s.channelSresetAssert_eq n) _ _ trivial
    (List.nodup_finRange 4)

/-- The watch unit, and its unit that waits at the port, as SRESET is asserted (R152). -/
structure WatchAtSreset (s : State) (w : Watch) (unit : Option MemUnit) : Prop where
  notScanning : s.watch.state ≠ .scanning → w = s.watch ∧ unit = s.port.watch
  scanning : s.watch.state = .scanning → w = s.watch.passDiscarded s.watchReadRunning ∧
    unit = if s.watch.read = none ∨ s.watchReadRunning = true then s.port.watch else none

/-- An assertion of SRESET reaches the channels, then the watch unit and its unit at the port alone. -/
theorem State.sresetAssert_eq (s : State) :
    ∃ w unit, WatchAtSreset s w unit ∧
      s.sresetAssert = (s.sresetChannels.setWatch w).setPort { s.sresetChannels.port with watch := unit } := by
  have reached := s.sresetChannels_reached
  have running : s.sresetChannels.watchReadRunning = s.watchReadRunning := reached.grants.running
  have parts : s.sresetAssert =
      if s.sresetChannels.watch.state = .scanning then s.sresetChannels.discardPass else s.sresetChannels := rfl
  rw [parts]
  generalize s.sresetChannels = u at reached running ⊢
  have watch : u.watch = s.watch := (congrArg State.watch reached.rest :)
  have unit : u.port.watch = s.port.watch := (congrArg Port.watch reached.port :)
  rw [watch]
  by_cases h : s.watch.state = .scanning
  · refine ⟨_, _, ⟨fun hn => absurd h hn, fun _ => ⟨rfl, rfl⟩⟩, ?_⟩
    rw [if_pos h, State.discardPass_eq, watch, unit, running]
  · refine ⟨_, _, ⟨fun _ => ⟨rfl, rfl⟩, fun hs => absurd hs h⟩, ?_⟩
    rw [if_neg h, ← watch, ← unit]
    rfl

/-- The withdrawal of grants says nothing of SRESET, of the watch unit, or of its unit at the port. -/
theorem GrantsWithdrawn.aside {r : SReset} {t : State} (h : GrantsWithdrawn (s.setSreset r) t) (w : Watch)
    (unit : Option MemUnit) : GrantsWithdrawn s ((t.setWatch w).setPort { t.port with watch := unit }) :=
  ⟨h.bus, h.noTenure, h.tenure, h.cycleOver, h.cycleGoesOn⟩

theorem Channel.sresetTaken_cases (c : Channel) :
    (c.state = .moving → c.sresetTaken = { c with stopped := true }) ∧
    (c.state = .waiting ∨ c.state = .heldOff → c.sresetTaken = { c with state := .idle }) ∧
    (c.state = .master → c.sresetTaken = { c with state := .idle, tenureTimer := none }) ∧
    (c.state = .off ∨ c.state = .idle ∨ c.state = .ready ∨ c.state = .faulted → c.sresetTaken = c) := by
  cases hs : c.state <;> simp [Channel.sresetTaken, hs]

/-- Settles O3: the five parts (`Untouched.settleBlocks`), the engine's choice by what it finds, the start of an
element, SRESET asserted (`State.sresetAssert_eq`). -/
theorem settlingLeavesRecordsAlone : Obligations.SettlingLeavesRecordsAlone := by
  refine ⟨fun s => ⟨(Untouched.refl s).settleBlocks, rfl⟩,
    fun k s => ⟨State.engineChoose_rests k, fun t => State.engineChoose_chooses k⟩,
    fun s e he => ⟨State.engineChoice_element he, State.engineRest_element he⟩,
    fun s n h => ⟨State.engineRest_action h, fun hi => ?_, fun op hi ha => ?_⟩,
    fun s h => ⟨State.EngineFree.rest h, fun n op hn ha hm => ?_, fun hm =>
      ⟨fun e ha => ⟨fun ht hc ho hp => ?_, fun hw => ?_⟩,
        fun ha => ⟨fun hw => ?_, fun xs e ys hq hx he hp hh => ?_⟩⟩⟩,
    fun s item owner op p => ⟨fun r => State.beginElement_refused, fun e h =>
      ⟨fun off hs => ?_, fun hs ho => ?_, fun hs ho => ?_⟩⟩,
    fun s => ?_⟩
  · rw [State.engineChoice_action h, if_pos (Option.isSome_iff_ne_none.mpr hi)]
  · rw [State.engineChoice_action h, if_neg (by simp [hi]), State.beginAction_some ha]
  · rw [State.EngineFree.line h (State.firstPending_some hn ha hm), State.EngineFree.takePending h ha]
  · rw [State.EngineFree.active h (State.firstPending_none hm) ha, if_pos]
    simp [e.runnable_iff.mpr ⟨ht, hc, ho⟩, hp]
  · rw [State.EngineFree.active h (State.firstPending_none hm) ha, if_neg]
    simp only [Bool.and_eq_true, e.runnable_iff, Bool.not_eq_true']
    rintro ⟨⟨ht, hc, ho⟩, hp⟩
    simp [ht, hc, ho, hp] at hw
  · rw [State.EngineFree.queue h (State.firstPending_none hm) ha]
    rcases hw with hp | hh | hn
    · exact if_pos (by simp [hp])
    · exact if_pos (by simp [hh])
    · rw [Queue.oldestQueued_none hn]
      exact ite_self none
  · have choice : s.engineChoice = some (s.activate e) := by
      rw [State.EngineFree.queue h (State.firstPending_none hm) ha, if_neg (by simp [hp, hh]),
        Queue.oldestQueued_some hq hx he]
      rfl
    intro wait t
    have queue : s.withFirstActive = t := by
      have timer : e.op.wait = wait := by cases ho : e.op <;> simp only [wait, ho, Op.wait]
      rw [State.withFirstActive, hq, activateFirst_append ys hx he, timer]
    exact ⟨fun ho => choice.trans (by rw [State.activate_plain ho, queue]),
      fun d ho => choice.trans (by rw [State.activate_slotReset ho, queue])⟩
  · exact (State.beginElement_starts h).trans (State.startElement_memoryFirst hs)
  · exact (State.beginElement_starts h).trans (State.startElement_card hs ho)
  · refine ((State.beginElement_starts h).trans (State.startElement_baseMemory hs ho)).trans ?_
    cases hop : e.op <;> simp only [ElementOp.unitOp] <;> rfl
  · obtain ⟨w, unit, watch, heq⟩ := s.sresetAssert_eq
    have reached := s.sresetChannels_reached
    rw [heq]
    generalize s.sresetChannels = u at reached
    have kept {α : Type} (f : State → α) := congrArg f reached.rest
    have port {α : Type} (f : Port → α) := congrArg f reached.port
    have channel (n : Fin 4) : u.channel n = (s.channel n).sresetTaken := reached.channel n
    refine ⟨kept State.sreset, reached.grants.aside w unit, fun n => ?_, watch.notScanning, watch.scanning,
      kept State.pending, kept State.link, kept State.windows, kept State.sfault, kept State.refresh, kept State.mem,
      kept State.queue, kept State.engine, kept State.lines, kept State.notices, kept State.free,
      port Port.last, port Port.engine, port Port.link⟩
    exact channel n ▸ (s.channel n).sresetTaken_cases

end Sys2Proof.Machine
end

/-! ## Base memory: its canonical form and what changes it (R38-R40) -/
section
namespace Sys2Proof.Machine

variable {s t : State}

/-- Settles O58: the canonical form of base memory is among the promises that every step keeps (`Promises.step`); the
one command that stores bytes keeps it unit by unit (`MemUnit.wf_serve`). -/
theorem stepKeepsMemoryCanonical : Obligations.StepKeepsMemoryCanonical :=
  fun _ _ hs h => (Promises.step h).mem hs

/-! ### What leaves base memory alone -/

theorem State.mem_settleLink (s : State) : s.settleLink.mem = s.mem := by
  unfold State.settleLink
  split
  · rfl
  · rw [State.mem_drain, State.mem_takeMessage]

theorem State.mem_arrive (s : State) (f : Framed) : (s.arrive f).mem = s.mem := by
  unfold State.arrive
  split
  · rfl
  · exact State.mem_drain _ _

theorem State.mem_partResetEnd (s : State) : s.partResetEnd.mem = s.mem := by
  unfold State.partResetEnd
  split
  · exact ((Keeps.refl _).finishWork ..).mem
  · rfl

theorem State.mem_queueLinkReset (s : State) : s.queueLinkReset.mem = s.mem := by
  unfold State.queueLinkReset
  dsimp only
  split
  · exact (Keeps.sresetRelease (Keeps.refl _)).mem
  · rfl

theorem State.mem_linkReset (s : State) : s.linkReset.mem = s.mem := by
  unfold State.linkReset
  split
  · rfl
  · have lines (u : State) : ((List.finRange 8).foldl State.lineLinkReset u).mem = u.mem :=
      (Keeps.foldl _ (fun _ n k => k.lineLinkReset n) _ (Keeps.refl u)).mem
    have blocks (u : State) :
        ((List.finRange 4).foldl State.quiesceChannel u).watchLinkReset.settleBlocks.mem = u.mem :=
      (Keeps.foldl _ (fun _ n k => k.quiesceChannel n) _ (Keeps.refl u)).watchLinkReset.settleBlocks.mem
    dsimp only
    rw [blocks, State.mem_queueLinkReset, lines]
    rfl

theorem State.mem_linkConfigured (s : State) : s.linkConfigured.mem = s.mem := by
  unfold State.linkConfigured
  split
  · rfl
  · split
    · exact State.mem_settleLink _
    · rfl

/-- A command that neither ends a memory turn nor is the start-up fill changes no byte of base memory. -/
theorem mem_exec_other {c : Instr} (h : exec c s = .next t) (hturn : c ≠ .memoryTurnEnd)
    (hfill : c ≠ .startUpFillDone) : t.mem = s.mem := by
  cases hr : c.request? with
  | some r =>
    obtain rfl := Host.Outcome.next.inj ((exec_request hr s).symm.trans h)
    exact s.mem_arrive _
  | none =>
    obtain ⟨u, hu, outcome⟩ := exec_event hr s
    obtain rfl := Host.Outcome.next.inj (hu.symm.trans h)
    cases outcome with
    | kept k => exact k.mem
    | linkSettled k => exact (State.mem_settleLink _).trans k.mem
    | settled k => exact (State.mem_settle _).trans k.mem
    | partResetEnd => exact (State.mem_settle _).trans s.mem_partResetEnd
    | refusedAtFraming l => exact s.mem_arrive _
    | reportComplete => exact State.mem_settleLink _
    | linkReset => exact s.mem_linkReset
    | linkConfigured => exact s.mem_linkConfigured
    | powerOn a b d => rfl
    | startUpFillDone => exact absurd rfl hfill
    | memoryTurnEnd => exact absurd rfl hturn

/-! ### The two commands that change it -/

/-- The unit of the turn has taken effect on base memory, and the turn is over. -/
def State.turnOver (s : State) (u : MemUnit) : State :=
  (s.setMem (u.serve s.mem).1).setPort { s.port with turn := none }

theorem State.memoryTurnEnd_idle (h : s.port.turn = none) : s.memoryTurnEnd = s := by
  simp only [State.memoryTurnEnd, h]

/-- The turn of a requester other than the engine: what the unit gives its requester. -/
theorem State.memoryTurnEnd_other {u : MemUnit} (h : s.port.turn = some u) (hu : u.requester ≠ .engine) :
    s.memoryTurnEnd = (s.turnOver u).unitServed u (s.mem.readUnit u.offset u.width) (u.serve s.mem).2.2 := by
  simp only [State.memoryTurnEnd, h, hu, if_false, ← MemUnit.serve_old]
  rfl

/-- The turn of the engine: whether its next unit is there when the port chooses may be open (log 6). -/
theorem State.memoryTurnEnd_engine {u : MemUnit} (h : s.port.turn = some u) (hu : u.requester = .engine) :
    s.memoryTurnEnd =
      (s.turnOver u).portTie.engineUnitServed (s.mem.readUnit u.offset u.width) (u.serve s.mem).2.2 := by
  simp only [State.memoryTurnEnd, State.unitServed, h, hu, if_true, ← MemUnit.serve_old]
  rfl

/-- What the end of a turn leaves in base memory is what its unit stored. -/
theorem State.mem_memoryTurnEnd {u : MemUnit} (h : s.port.turn = some u) :
    s.memoryTurnEnd.mem = (u.serve s.mem).1 := by
  by_cases hu : u.requester = .engine
  · rw [State.memoryTurnEnd_engine h hu]
    exact (Keeps.engineUnitServed (Keeps.portTie (Keeps.refl (s.turnOver u))) ..).mem
  · rw [State.memoryTurnEnd_other h hu]
    exact (Keeps.unitServed (Keeps.refl (s.turnOver u)) ..).mem

theorem MemUnit.serve_read {u : MemUnit} (h : u.op = .read) (m : Mem) : (u.serve m).1 = m := by
  simp only [MemUnit.serve, h]

theorem State.startUpFillDone_first (h : s.link.filled = false) :
    s.startUpFillDone = (s.setMem []).setLink { s.link with filled := true } :=
  if_neg (by simp [h])

theorem State.startUpFillDone_again (h : s.link.filled = true) : s.startUpFillDone = s := if_pos h

/-- Settles O24: the commands that store nothing (`mem_exec_other`), the bytes of the unit of a turn, the fill. -/
theorem memoryFrame : Obligations.MemoryFrame := by
  refine ⟨fun c s t => mem_exec_other, fun s t h => ?_, fun s t h => ?_⟩
  · obtain rfl := Host.Outcome.next.inj h
    rw [State.mem_settle]
    refine ⟨fun hn => by rw [State.memoryTurnEnd_idle hn], fun u hu => ?_⟩
    rw [State.mem_memoryTurnEnd hu]
    exact ⟨fun ho => MemUnit.serve_read ho _, fun a => u.get_serve_outside s.mem a⟩
  · obtain rfl := Host.Outcome.next.inj h
    refine ⟨fun hf => by rw [State.startUpFillDone_again hf], fun hf a => ?_⟩
    rw [State.startUpFillDone_first hf]
    rfl

end Sys2Proof.Machine
end

/-! ## The memory port: serving a unit and choosing the next (R38, R40, R41) -/
section
namespace Sys2Proof.Machine

/-! ### Serving a unit -/

theorem MemUnit.serve_write {u : MemUnit} {v : Word} (h : u.op = .write v) (m : Mem) :
    (u.serve m).1 = m.writeUnit u.offset u.width v := by
  simp only [MemUnit.serve, h]

/-- What a write leaves: the low byte at the offset, of a two-byte unit the high byte above it, every other byte as it
was. -/
theorem MemUnit.get_serve_write {u : MemUnit} {v : Word} (h : u.op = .write v) {m : Mem} (hm : m.wf = true) :
    Mem.get (u.serve m).1 u.offset = lowByte v ∧
    (u.width = .two → Mem.get (u.serve m).1 (u.offset + 1) = highByte v) ∧
    ∀ a, a < u.offset ∨ u.offset + u.width.bytes ≤ a → Mem.get (u.serve m).1 a = Mem.get m a := by
  refine ⟨?_, fun hw => ?_, fun a => u.get_serve_outside m a⟩
  · rw [MemUnit.serve_write h]
    exact Mem.get_writeUnit_low m u.offset u.width v hm
  · rw [MemUnit.serve_write h, hw]
    exact Mem.get_writeUnit_high m u.offset v hm

/-! ### The slot side: BUS, then ENGINE, then WATCH -/

section
variable {p : Port} {u : MemUnit}

theorem Port.slotUnit_bus {us : List MemUnit} (h : p.bus = u :: us) :
    p.slotUnit = some u ∧ p.dropSlotUnit = { p with bus := us } := by
  simp only [Port.slotUnit, Port.dropSlotUnit, h, and_self]

theorem Port.slotUnit_engine (hb : p.bus = []) (h : p.engine = some u) :
    p.slotUnit = some u ∧ p.dropSlotUnit = { p with engine := none } := by
  simp only [Port.slotUnit, Port.dropSlotUnit, hb, h, and_self]

theorem Port.slotUnit_watch (hb : p.bus = []) (he : p.engine = none) (h : p.watch = some u) :
    p.slotUnit = some u ∧ p.dropSlotUnit = { p with watch := none } := by
  simp only [Port.slotUnit, Port.dropSlotUnit, hb, he, h, and_self]

theorem Port.slotUnit_none (hb : p.bus = []) (he : p.engine = none) (hw : p.watch = none) : p.slotUnit = none := by
  simp only [Port.slotUnit, hb, he, hw]

/-! ### The choice between the sides -/

/-- A slot-side unit is taken when no link-side request waits or the link side was served last. -/
theorem Port.choose_slot {q : Port} (ht : p.turn = none) (hu : p.slotUnit = some u ∧ p.dropSlotUnit = q)
    (hl : p.link = none ∨ p.last = .link) : p.choose = { q with turn := some u, last := .slot } := by
  obtain ⟨hunit, rfl⟩ := hu
  cases hj : p.link with
  | none => simp only [Port.choose, ht, hunit, hj]
  | some j =>
    have hlast : p.last = .link := hl.resolve_left (by simp [hj])
    simp only [Port.choose, ht, hunit, hj, hlast, if_true]

/-- The link-side request is served when the slot side was served last or has no unit. -/
theorem Port.choose_link {j : LinkJob} (ht : p.turn = none) (hj : p.link = some j)
    (hl : p.last = .slot ∨ p.slotUnit = none) : p.choose = { p with turn := some j.unit, last := .link } := by
  cases hu : p.slotUnit with
  | none => simp only [Port.choose, ht, hu, hj]
  | some u =>
    have hlast : p.last = .slot := hl.resolve_right (by simp [hu])
    simp only [Port.choose, ht, hu, hj, hlast, reduceCtorEq, if_false]

theorem Port.choose_none (ht : p.turn = none) (hu : p.slotUnit = none) (hj : p.link = none) : p.choose = p := by
  simp only [Port.choose, ht, hu, hj]
end

/-- Settles O23: serving by the unit's operation, then the choice by the side (`Port.choose_slot`, `Port.choose_link`)
and, on the slot side, by the requester. -/
theorem portChoosesAndServes : Obligations.PortChoosesAndServes := by
  refine ⟨⟨fun r o w m => ⟨rfl, rfl, rfl⟩, fun r o w v m hm => ?_, fun r o w x y m => rfl⟩,
    fun p ht => ⟨fun u us hb hl => ?_, fun u hb he hl => ?_, fun u hb he hw hl => ?_, fun j hj hl => ?_,
      fun hb he hw hj => ?_⟩⟩
  · exact MemUnit.get_serve_write (u := ⟨r, o, w, .write v⟩) rfl hm
  · exact Port.choose_slot ht (Port.slotUnit_bus hb) hl
  · exact Port.choose_slot ht (Port.slotUnit_engine hb he) hl
  · exact Port.choose_slot ht (Port.slotUnit_watch hb he hw) hl
  · exact Port.choose_link ht hj (hl.imp_right fun ⟨hb, he, hw⟩ => Port.slotUnit_none hb he hw)
  · exact Port.choose_none ht (Port.slotUnit_none hb he hw) hj

end Sys2Proof.Machine
end

/-! ## MEMORY_READ, MEMORY_WRITE and MEMORY_FILL (R44-R46) -/
section
namespace Sys2Proof.Machine

variable {s : State}

/-- A request within base memory begins the job that its taking asks for. -/
theorem exec_memoryBegins (h : s.Listening) (c : Instr) {tag : Word} {b : RequestBody} {d : List Byte}
    (hc : c.request? = some ⟨tag, b, d⟩) (hl : b.size + d.length ≤ 1094) {k : Byte} {j : LinkJob}
    (hs : s.serve ⟨tag, b, d⟩ = s.startLinkJob k tag j) :
    exec c s = .next (State.settleLink
      ((s.setSlot (.working .memory k tag)).setPort (Port.choose { s.port with link := some j }))) :=
  (exec_request hc s).trans (congrArg _ (h.job _ (HostRequest.length_small hl) k j hs))

/-- A request outside base memory is answered BAD_FIELD at once. -/
theorem exec_memoryRefused (h : s.Listening) (c : Instr) {tag : Word} {b : RequestBody} {d : List Byte}
    (hc : c.request? = some ⟨tag, b, d⟩) (hl : b.size + d.length ≤ 1094) {k : Byte}
    (hs : s.serve ⟨tag, b, d⟩ = s.refuse k tag .badField) :
    exec c s = .next (s.replied ⟨k ||| 0x80, .badField, tag, .none⟩) :=
  (exec_request hc s).trans (congrArg _ (h.answered _ (HostRequest.length_small hl) s rfl _ hs))

section
variable (tag : Word) (o : BitVec 24)

theorem State.takeMemoryRead_begins {n : Word} (h : rangeOk o.toNat n.toNat 1024 = true) :
    s.takeMemoryRead tag o n [] = s.startLinkJob 0x18 tag ⟨.read [], o.toNat, o.toNat + n.toNat⟩ := if_pos h

theorem State.takeMemoryRead_refused {n : Word} (h : rangeOk o.toNat n.toNat 1024 = false) :
    s.takeMemoryRead tag o n [] = s.refuse 0x18 tag .badField := if_neg (by simp [h])

theorem State.takeMemoryWrite_begins {d : List Byte} (h : rangeOk o.toNat d.length 1024 = true) :
    s.takeMemoryWrite tag o d = s.startLinkJob 0x19 tag ⟨.write d, o.toNat, o.toNat + d.length⟩ := if_pos h

theorem State.takeMemoryWrite_refused {d : List Byte} (h : rangeOk o.toNat d.length 1024 = false) :
    s.takeMemoryWrite tag o d = s.refuse 0x19 tag .badField := if_neg (by simp [h])

theorem State.takeMemoryFill_begins {n : BitVec 24} (p : Byte) (h : rangeOk o.toNat n.toNat Config.memorySize = true) :
    s.takeMemoryFill tag o n p [] = s.startLinkJob 0x1A tag ⟨.fill p, o.toNat, o.toNat + n.toNat⟩ := if_pos h

theorem State.takeMemoryFill_refused {n : BitVec 24} (p : Byte)
    (h : rangeOk o.toNat n.toNat Config.memorySize = false) :
    s.takeMemoryFill tag o n p [] = s.refuse 0x1A tag .badField := if_neg (by simp [h])
end

/-- Settles O21: the range check (`rangeOk_true`, `rangeOk_false`), then the job or the refusal. -/
theorem memoryRequestsBeginOrAreRefused : Obligations.MemoryRequestsBeginOrAreRefused := by
  refine ⟨fun tag s h => ⟨fun o n h1 h2 h3 => ?_, fun o d h1 h2 h3 => ?_, fun o n p h1 h2 h3 => ?_⟩,
    fun tag s h => ⟨fun o n hn => ?_, fun o d hl hd => ?_, fun o n p hn => ?_⟩⟩
  · exact exec_memoryBegins h (.memoryRead tag o n []) rfl (by simp [RequestBody.size])
      (State.takeMemoryRead_begins tag o (rangeOk_true h1 h2 h3))
  · exact exec_memoryBegins h (.memoryWrite tag o d) rfl (by simp only [RequestBody.size]; omega)
      (State.takeMemoryWrite_begins tag o (rangeOk_true h1 h2 h3))
  · exact exec_memoryBegins h (.memoryFill tag o n p []) rfl (by simp [RequestBody.size])
      (State.takeMemoryFill_begins tag o p (rangeOk_true h1 h2 h3))
  · exact exec_memoryRefused h (.memoryRead tag o n []) rfl (by simp [RequestBody.size])
      (State.takeMemoryRead_refused tag o (rangeOk_false (hn.imp_left (congrArg BitVec.toNat))))
  · exact exec_memoryRefused h (.memoryWrite tag o d) rfl (by simp only [RequestBody.size]; omega)
      (State.takeMemoryWrite_refused tag o (rangeOk_false (hd.imp_left (congrArg List.length))))
  · exact exec_memoryRefused h (.memoryFill tag o n p []) rfl (by simp [RequestBody.size])
      (State.takeMemoryFill_refused tag o p (rangeOk_false (hn.imp_left (congrArg BitVec.toNat))))

end Sys2Proof.Machine
end

/-! ## The start-up and the level rule of the lines (R35, R39, R104, R118, R173) -/
section
namespace Sys2Proof.Machine

variable {s : State}

/-! ### The configuration of the link and the end of the power-on pulse -/

theorem State.linkConfigured_first (h : s.link.state = .detached) (hf : s.link.filled = true) :
    s.linkConfigured =
      (s.setLink { s.link with state := .configured, slot := .empty, report := .free }).settleLink := by
  simp only [State.linkConfigured, h, hf, if_true]

theorem State.linkConfigured_idle (h : s.link.state = .configured ∨ s.link.filled = false) :
    s.linkConfigured = s := by
  cases hs : s.link.state with
  | configured => simp only [State.linkConfigured, hs]
  | detached =>
    have hf : s.link.filled = false := h.resolve_left (by simp [hs])
    simp only [State.linkConfigured, hs, hf, Bool.false_eq_true, if_false]

theorem State.powerOnSresetEnd_pulse (h : s.sreset = .powerOn) : s.powerOnSresetEnd = s.sresetReleased := by
  simp only [State.powerOnSresetEnd, h]

theorem State.powerOnSresetEnd_idle (h : s.sreset ≠ .powerOn) : s.powerOnSresetEnd = s := by
  cases hs : s.sreset with
  | powerOn => exact absurd hs h
  | _ => simp only [State.powerOnSresetEnd, hs]

/-! ### The level rule of one line -/

/-- The line takes a level event now: an INTERRUPT line in LEVEL mode, IDLE, with SINT asserted and SRESET released. -/
def State.LevelDue (s : State) (n : Fin 8) : Prop :=
  (s.line n).role = .interrupt ∧ (s.line n).mode = .level ∧ (s.line n).state = .idle ∧ (s.line n).level = true ∧
    s.sreset = .released

theorem State.LevelDue.idle {n : Fin 8} (h : s.LevelDue n) : (s.line n).state = .idle := by
  obtain ⟨_, _, hidle, _⟩ := h
  exact hidle

theorem State.lineLevelRule_due {n : Fin 8} (h : s.LevelDue n) : s.lineLevelRule n = s.lineEvent n := by
  obtain ⟨hr, hm, hs, hl, hx⟩ := h
  exact if_pos ⟨hr, hm, hs, hl, s.inSlotReset_false.mpr hx⟩

theorem State.lineLevelRule_notDue {n : Fin 8} (h : ¬ s.LevelDue n) : s.lineLevelRule n = s :=
  if_neg fun ⟨hr, hm, hs, hl, hx⟩ => h ⟨hr, hm, hs, hl, s.inSlotReset_false.mp hx⟩

/-- An event on an IDLE line with an action: PENDING, the edge counted (R106). -/
theorem State.lineEvent_action {n : Fin 8} (hs : (s.line n).state = .idle) (ha : (s.line n).action ≠ none) :
    s.lineEvent n = s.setLine n { s.line n with state := .pending, edges := min 255 ((s.line n).edges + 1) } := by
  obtain ⟨op, ha⟩ := Option.ne_none_iff_exists'.mp ha
  simp only [State.lineEvent, State.lineToPending, hs, ha, State.line_setLine_same, State.setLine_setLine, addEdges,
    saturate, Nat.min_comm]

/-- An event on an IDLE line without an action: its notice, then the state by the service (R108). -/
theorem State.lineEvent_notice {n : Fin 8} (hs : (s.line n).state = .idle) (ha : (s.line n).action = none) :
    s.lineEvent n =
      ((s.setLine n { s.line n with
          state := match (s.line n).service with | .hold => .inService | .auto => .idle, edges := 0 }).setNotices
        (postTo s.notices (.line n)
          (.line ⟨n, min 255 ((s.line n).edges + 1), .none, none, false⟩))).deliver (.line n) := by
  simp only [State.lineEvent, State.lineToPending, State.postLine, hs, ha, State.line_setLine_same,
    State.setLine_setLine, addEdges, saturate, Nat.min_comm]
  rfl

/-- Settles O7: the fill, the configuration and the release by what they find; the level rule by whether the line is
due (`State.LevelDue`); the lines one after another (`State.linesLevelRule_steps`). -/
theorem startUpReleaseAndConfiguration : Obligations.StartUpReleaseAndConfiguration := by
  refine ⟨⟨fun s hf => ?_, fun s hf => ?_, fun s hd hf => ?_, fun s h => ?_⟩, ⟨fun s h => ?_, fun s h => ?_⟩,
    fun s n => ⟨State.lineLevelRule_notDue, fun hd ha => ?_, fun hd ha => ?_⟩,
    fun s => ⟨s.linesLevelRule_steps, s.line_linesLevelRule⟩⟩
  · exact congrArg _ (State.startUpFillDone_first hf)
  · exact congrArg _ (State.startUpFillDone_again hf)
  · exact congrArg _ (State.linkConfigured_first hd hf)
  · exact congrArg _ (State.linkConfigured_idle h)
  · exact next_settle_congr (State.powerOnSresetEnd_pulse h)
  · exact next_settle_congr (State.powerOnSresetEnd_idle h)
  · exact (State.lineLevelRule_due hd).trans (State.lineEvent_action (State.LevelDue.idle hd) ha)
  · exact (State.lineLevelRule_due hd).trans (State.lineEvent_notice (State.LevelDue.idle hd) ha)

end Sys2Proof.Machine
end

/-! ## The end of a memory turn (R17, R40-R46, R80-R82, R95, R144, R145, R150) -/
section
namespace Sys2Proof.Machine

variable {s : State}

/-! ### What the unit gives its requester -/

theorem State.dmaReadServed_waiting {n : Fin 4} {c : Cycle} (hc : s.bus.cycle = some c) (hk : c.kind = .dma n)
    (hn : c.needsUnit = true) (v : Word) :
    s.dmaReadServed n v = s.setCycle (some { c with drive := v, needsUnit := false }) := by
  simp only [State.dmaReadServed, hc, hk, hn, and_self, if_true]

theorem State.masterReadServed_waiting {m : MasterCycle} (hm : s.bus.master = some m) (ha : m.answer = .readWait)
    (v : Word) : s.masterReadServed v = s.setMaster (some { m with answer := .readServed v }) := by
  simp only [State.masterReadServed, hm, ha, if_true]

theorem State.masterStoreServed_waiting {m : MasterCycle} (hm : s.bus.master = some m) (ha : m.answer = .writeWait) :
    s.masterStoreServed = s.setMaster (some { m with answer := .writeStored }) := by
  simp only [State.masterStoreServed, hm, ha, if_true]

/-- A link-side request with bytes left goes on behind the unit (R44-R46). -/
theorem State.linkUnitServed_more {j : LinkJob} (hj : s.port.link = some j) (h : j.next + j.width.bytes < j.stop)
    (v : Word) : s.linkUnitServed v = s.setPort { s.port with link := some (j.advance v) } := by
  have h' : (j.advance v).next < (j.advance v).stop := h
  simp only [State.linkUnitServed, hj, h', if_true]

/-- A link-side request whose last unit has been served is over, and its reply is formed (R44-R46). -/
theorem State.linkUnitServed_last {j : LinkJob} (hj : s.port.link = some j) (h : j.stop ≤ j.next + j.width.bytes)
    (v : Word) :
    s.linkUnitServed v =
      (s.setPort { s.port with link := none }).finishWork .memory (j.advance v).work.replyBody := by
  have h' : ¬ (j.advance v).next < (j.advance v).stop := Nat.not_lt.mpr h
  simp only [State.linkUnitServed, hj, h', if_false]

/-! ### The engine's unit (R17, R80, R81, R95) -/

theorem State.engineUnitServed_memoryFirst {e : Element} (he : s.engine.element = some e) {off : Nat}
    (hs : e.stage = .memoryFirst off) (v1 v2 : Word) :
    s.engineUnitServed v1 v2 =
      (s.setElement (some { e with op := .write v1, stage := .card })).startCardPart
        { e with op := .write v1, stage := .card } := by
  simp only [State.engineUnitServed, he, hs]

theorem State.startCardPart_baseMemory {e : Element} (h : e.attrs.owner = .baseMemory) :
    s.startCardPart e = s.engineUnit e.address e.width e.op.unitOp := by
  simp only [State.startCardPart, h]

theorem State.startCardPart_other {e : Element} (h : e.attrs.owner ≠ .baseMemory) : s.startCardPart e = s := by
  cases ho : e.attrs.owner with
  | baseMemory => exact absurd ho h
  | _ => simp only [State.startCardPart, ho]

theorem State.engineUnitServed_card {e : Element} (he : s.engine.element = some e) (hs : e.stage = .card)
    (v1 v2 : Word) : s.engineUnitServed v1 v2 = s.cardPartDone e v1 v2 := by
  simp only [State.engineUnitServed, he, hs]

theorem State.engineUnitServed_fetched {e : Element} (he : s.engine.element = some e) (hs : e.stage = .memoryLast)
    {off : Nat} (ha : e.after = .fetch off) (v1 v2 : Word) :
    s.engineUnitServed v1 v2 = s.elementBoundary e e.value v1 := by
  simp only [State.engineUnitServed, he, hs, ha]

theorem State.engineUnitServed_stored {e : Element} (he : s.engine.element = some e) (hs : e.stage = .memoryLast)
    (ha : ∀ off, e.after ≠ .fetch off) (v1 v2 : Word) :
    s.engineUnitServed v1 v2 = s.elementBoundary e e.value 0 := by
  cases h : e.after with
  | fetch off => exact absurd h (ha off)
  | _ => simp only [State.engineUnitServed, he, hs, h]

/-! ### The units of a link-side request (R40, R44-R46) -/

section
variable {j : LinkJob}

theorem LinkJob.unit_read {g : List Byte} (h : j.work = .read g) :
    j.unit.op = .read ∧ ∀ v, (j.advance v).work = .read (g ++ valueBytes j.width v) := by
  simp only [LinkJob.unit, LinkJob.advance, h, implies_true, and_self]

theorem LinkJob.unit_write {l : List Byte} (h : j.work = .write l) :
    j.unit.op = .write (inlineValue j.width l 0) ∧ ∀ v, (j.advance v).work = .write (l.drop j.width.bytes) := by
  simp only [LinkJob.unit, LinkJob.advance, h, implies_true, and_self]

theorem LinkJob.unit_fill {b : Byte} (h : j.work = .fill b) :
    j.unit.op = .write (wordOf b b) ∧ ∀ v, (j.advance v).work = .fill b := by
  simp only [LinkJob.unit, LinkJob.advance, h, implies_true, and_self]
end

/-! ### The turn by its requester -/

section
variable {u : MemUnit} (h : s.port.turn = some u)
include h

/-- The end of a turn of a requester other than the engine, by what the unit gives that requester. -/
theorem exec_turnEnd {r : Requester} (hu : u.requester = r) (hr : r ≠ .engine) {y : State}
    (hy : (s.turnOver u).unitServed { u with requester := r } (s.mem.readUnit u.offset u.width)
      (u.serve s.mem).2.2 = y) :
    exec .memoryTurnEnd s = .next y.settle := by
  subst hu
  exact next_settle_congr ((State.memoryTurnEnd_other h hr).trans hy)

/-- The end of the engine's turn with no WATCH unit waiting: nothing is open. -/
theorem exec_turnEnd_engine (hu : u.requester = .engine) (hw : s.port.watch = none) :
    exec .memoryTurnEnd s =
      .next ((s.turnOver u).engineUnitServed (s.mem.readUnit u.offset u.width) (u.serve s.mem).2.2).settle := by
  have alone : (s.turnOver u).portTie = s.turnOver u := if_neg (by simp [State.turnOver, hw])
  exact next_settle_congr ((State.memoryTurnEnd_engine h hu).trans (by rw [alone]))

/-- The end of the engine's turn with a WATCH unit waiting: the port may choose before the engine's next unit is
there (log 6). -/
theorem exec_turnEnd_contended (hu : u.requester = .engine) (hw : s.port.watch ≠ none) :
    let y := (s.turnOver u).setFree (s.free + 1)
    exec .memoryTurnEnd s = .next (State.settle (State.engineUnitServed
      (if Config.freeOrder s.free then y else y.setPort y.port.choose)
      (s.mem.readUnit u.offset u.width) (u.serve s.mem).2.2)) := by
  have waits : (s.turnOver u).port.watch.isSome = true := Option.isSome_iff_ne_none.mpr hw
  have tie : (s.turnOver u).portTie = _ := if_pos waits
  exact next_settle_congr ((State.memoryTurnEnd_engine h hu).trans (by rw [tie]; rfl))
end


/-- Settles O22: the turn by its requester, the engine's unit by the element's stage, the units of a link-side request
by its work. -/
theorem memoryTurnEndServes : Obligations.MemoryTurnEndServes := by
  refine ⟨fun s u h => ?_, fun s e v1 v2 he => ?_, fun j => ?_⟩
  · intro x v
    have ends {r : Requester} (hu : u.requester = r) (hr : r ≠ .engine) {y : State}
        (hy : x.unitServed { u with requester := r } v (u.serve s.mem).2.2 = y) :
        exec .memoryTurnEnd s = .next y.settle := exec_turnEnd h hu hr hy
    refine ⟨fun n hu => ?_, fun n c hu hc hk hn => ?_, fun m hu hm ha => ?_, fun m hu hm ha => ?_,
      fun r hu hr hd hs => ?_, fun j hu hj hlt => ?_, fun j kind tag hu hj hle hw => ?_,
      fun e hu hw he hst hi ha => ?_, fun hu => ⟨exec_turnEnd_engine h hu, exec_turnEnd_contended h hu⟩,
      fun r hu hr hs hd => ?_, fun r hu hr hs => ⟨fun kind tag hw => ?_, fun hw => ?_⟩⟩
    · exact hu.elim (fun hu => ends hu nofun rfl) fun hu => ends hu nofun rfl
    · exact ends hu nofun (State.dmaReadServed_waiting (s := x) hc hk hn v)
    · exact ends hu nofun (State.masterReadServed_waiting (s := x) hm ha v)
    · exact ends hu nofun (State.masterStoreServed_waiting (s := x) hm ha)
    · exact ends hu nofun (State.watchReadEnd_recorded (s := x) hr hd hs (.value v))
    · exact ends hu nofun (State.linkUnitServed_more (s := x) hj hlt v)
    · have finished := State.linkUnitServed_last (s := x) hj hle v
      exact ends hu nofun (finished.trans (State.finishWork_working (s := x.setPort { x.port with link := none }) hw _))
    · have done := (State.engineUnitServed_card (s := x) he hst v (u.serve s.mem).2.2).trans
        ((State.cardPartDone_nothing ha _ _).trans (x.elementBoundary_entry hi _ _))
      exact (exec_turnEnd_engine h hu hw).trans (next_settle_congr done)
    · exact ends hu nofun (State.watchReadEnd_discarded (s := x) hr hd hs (.value v))
    · have stopped := State.watchReadEnd_stopping (s := x) hr hs (.value v)
      exact ends hu nofun (stopped.trans (State.finishWork_working (s := x.setWatch x.watch.stopped) hw _))
    · have stopped := State.watchReadEnd_stopping (s := x) hr hs (.value v)
      exact ends hu nofun (stopped.trans (State.finishWork_other (s := x.setWatch x.watch.stopped) hw _))
  · intro e' last due
    have first {off : Nat} (hst : e.stage = .memoryFirst off) := State.engineUnitServed_memoryFirst he hst v1 v2
    have card (hst : e.stage = .card) := State.engineUnitServed_card he hst v1 v2
    refine ⟨fun off hst => ⟨fun ho => (first hst).trans (State.startCardPart_baseMemory (e := e') ho),
        fun ho => (first hst).trans (State.startCardPart_other (e := e') ho)⟩,
      fun hst => ⟨fun ha => (card hst).trans (State.cardPartDone_nothing ha v1 v2),
        fun off ha => (card hst).trans (State.cardPartDone_store ha v1 v2),
        fun off ha => (card hst).trans (State.cardPartDone_fetch ha v1 v2)⟩,
      fun hst => ⟨fun off ha => State.engineUnitServed_fetched he hst ha v1 v2,
        fun ha => State.engineUnitServed_stored he hst ha v1 v2⟩⟩
  · refine ⟨rfl, ⟨rfl, rfl, rfl⟩, fun v => ⟨rfl, rfl⟩, fun g hw => ?_, fun b0 b1 rest hw h2 => ?_,
      fun b0 rest hw h1 => ?_, fun b => LinkJob.unit_fill, fun g => rfl, fun l => rfl, fun b => rfl⟩
    · exact LinkJob.unit_read hw
    · have unit := LinkJob.unit_write hw
      rw [h2] at unit
      exact unit
    · have unit := LinkJob.unit_write hw
      rw [h1] at unit
      exact unit

end Sys2Proof.Machine
end

/-! ## The request queue: what it promises, its control, its admission (R50-R58) -/
section
namespace Sys2Proof.Machine

variable {s : State}

/-- Settles O60: the order of ACTIVE entries and the blocks of the channels are among the promises that every step keeps
(`Promises.step`). -/
theorem stepKeepsActiveAndBlocks : Obligations.StepKeepsActiveAndBlocks :=
  ⟨fun _ _ ha h => (Promises.step h).active ha, fun _ _ hc h => (Promises.step h).channels hc⟩

/-! ### Requests that a listening link takes (R163, R165) -/

section
variable (h : s.Listening) (c : Instr) {tag : Word} {b : RequestBody} {d : List Byte}
  (hc : c.request? = some ⟨tag, b, d⟩) (hl : b.size + d.length ≤ 1094)
include h hc hl

/-- A request that is answered as it is taken. -/
theorem exec_answered {x : State} (hx : x.link = s.link) {p : Reply}
    (hs : s.serve ⟨tag, b, d⟩ = x.setSlot (.ready p)) : exec c s = .next (x.replied p) :=
  (exec_request hc s).trans (congrArg _ (h.answered _ (HostRequest.length_small hl) x hx p hs))

/-- A request whose reply stands in the slot while the blocks settle. -/
theorem exec_readied {x : State} (hx : x.link = s.link) {kind : Byte} {body : ReplyBody}
    (hs : s.serve ⟨tag, b, d⟩ = (x.readied kind tag body).settleBlocks) :
    exec c s = .next (x.readied kind tag body).settle :=
  (exec_request hc s).trans (congrArg _
    (h.settled _ (HostRequest.length_small hl) (x.readied kind tag body) (congrArg (·.state) hx)
      (congrArg (·.pipe) hx) hs))

/-- A request without an immediate reply, after which the blocks settle. -/
theorem exec_settled {x : State} (hx : x.link = s.link) (hs : s.serve ⟨tag, b, d⟩ = x.settleBlocks) :
    exec c s = .next x.settle :=
  (exec_request hc s).trans (congrArg _
    (h.settled _ (HostRequest.length_small hl) x (congrArg (·.state) hx) (congrArg (·.pipe) hx) hs))
end

/-! ### Pause, resume, flush (R54, R56) -/

theorem Queue.active_eq_none {q : Queue} (h : ∀ e ∈ q.entries, e.state ≠ .active) : q.active = none :=
  List.find?_eq_none.mpr fun e he => by simpa using h e he

theorem exec_queuePause (h : s.Listening) (tag : Word) :
    exec (.queuePause tag []) s = .next ((s.setQueue { s.queue with paused := true }).replied
      ⟨0xC0, .ok, tag, .pause (s.queue.active.map fun e => (e.tag, s.entryStarted))⟩) :=
  exec_answered h (.queuePause tag []) rfl (by simp [RequestBody.size])
    (x := s.setQueue { s.queue with paused := true }) rfl rfl

theorem Queue.queuedCount_eq (q : Queue) : q.queuedCount = q.entries.countP fun e => e.state == .queued :=
  List.countP_eq_length_filter.symm

/-- Settles O41: the pause by whether an entry is ACTIVE, then the two requests after which the blocks settle. -/
theorem queuePauseResumeFlush : Obligations.QueuePauseResumeFlush := by
  refine ⟨fun tag s h => ⟨fun hn => ?_, fun e he started hs => ?_, ?_⟩, fun tag s h => ?_⟩
  · rw [exec_queuePause h, Queue.active_eq_none hn]
    rfl
  · have same : s.entryStarted = started := Bool.eq_iff_iff.mpr (s.entryStarted_iff.trans hs.symm)
    rw [exec_queuePause h, he, same]
    rfl
  · exact exec_readied h (.queueResume tag []) rfl (by simp [RequestBody.size])
      (x := s.setQueue { s.queue with paused := false, halted := false }) rfl rfl
  · rw [← Queue.queuedCount_eq]
    exact exec_readied h (.queueFlush tag []) rfl (by simp [RequestBody.size])
      (x := s.setQueue { s.queue with entries := s.queue.entries.map Entry.flush, halted := false }) rfl rfl

/-! ### The admission of the queued requests (R50) -/

section
variable {kind : Byte} {tag : Word}

theorem State.admission_badField : s.admission kind tag none = s.refuse kind tag .badField := rfl

theorem State.admission_duplicate {op : Op} (h : ∃ e ∈ s.queue.entries, e.tag = tag) :
    s.admission kind tag (some op) = s.refuse kind tag .duplicateTag :=
  if_pos (by simpa using h)

theorem State.admission_full {op : Op} (h : ∀ e ∈ s.queue.entries, e.tag ≠ tag) (hn : 32 ≤ s.queue.entries.length) :
    s.admission kind tag (some op) = s.refuse kind tag .queueFull :=
  (if_neg (by simpa using h)).trans (if_pos hn)

theorem State.admission_admits {op : Op} (h : s.queue.admits tag) :
    s.admission kind tag (some op) =
      (s.setQueue { s.queue with entries := s.queue.entries ++ [Entry.fresh tag op] }).settleBlocks := by
  obtain ⟨unused, room⟩ := h
  exact (if_neg (by simpa using unused)).trans (if_neg (Nat.not_le.mpr room))
end

/-- Settles O43: the taking is the admission by what is asked for (`serve_queued`), which refuses in the order of R50. -/
theorem admissionRefusesInOrder : Obligations.AdmissionRefusesInOrder := by
  intro i tag b data s hi hw hq h
  obtain ⟨asked, hasked, hserve⟩ := serve_queued b data hq s tag
  have refused {st : Status} (ha : s.admission b.kind tag asked = s.refuse b.kind tag st) :
      exec i s = .next (s.replied ⟨b.kind ||| 0x80, st, tag, .none⟩) :=
    (exec_request hi s).trans
      (congrArg _ (h.answered _ (HostRequest.length_le hw) s rfl _ (hserve.trans ha)))
  refine ⟨fun hn => refused ?_, fun op hop => ⟨fun hdup => refused ?_, fun hnew hfull => refused ?_⟩⟩
  · have nothing : asked = none :=
      Option.eq_none_iff_forall_ne_some.mpr fun op ho => hn op ((hasked op).mp ho)
    rw [nothing, State.admission_badField]
  · rw [(hasked op).mpr hop, State.admission_duplicate hdup]
  · rw [(hasked op).mpr hop, State.admission_full hnew hfull]

/-- A Transfer with its fields in range carries at most 1024 bytes of inline data (R77). -/
theorem transfer_data_le {f : TransferFields} {data : List Byte} {op : Op} (h : f.Asks data op) :
    data.length ≤ 1024 := by
  cases op with
  | transfer dir card step count side =>
    obtain ⟨_, _, _, _, _, _, hside⟩ := h
    cases side with
    | base off ms =>
      obtain ⟨_, _, _, _, rfl⟩ := hside
      exact Nat.zero_le _
    | inline l =>
      obtain ⟨_, hbytes, _, _, _, hlen⟩ := hside
      cases dir with
      | into => exact hlen.trans_le (Nat.zero_le _)
      | out => exact hlen.trans_le hbytes
  | _ => exact h.elim

/-- A queued request with its fields in range fits the link: but for a Transfer it carries no data. -/
theorem asks_fits {b : RequestBody} {data : List Byte} {op : Op} (h : b.Asks data op) :
    b.size + data.length ≤ 1094 := by
  unfold RequestBody.Asks at h
  split at h
  case h_4 f _ =>
    have := transfer_data_le h
    simp only [RequestBody.size]
    omega
  case h_10 => exact h.elim
  all_goals
    obtain ⟨rfl, _⟩ := h
    simp [RequestBody.size]

/-- A queued request that asks for an operation, with a tag that the queue admits, is appended at the tail. -/
theorem exec_appends (h : s.Listening) (c : Instr) {tag : Word} {b : RequestBody} {data : List Byte} {op : Op}
    (hc : c.request? = some ⟨tag, b, data⟩) (hq : b.queued = true) (hadmits : s.queue.admits tag)
    (hop : b.Asks data op) :
    exec c s = .next (s.setQueue { s.queue with entries := s.queue.entries ++ [Entry.fresh tag op] }).settle := by
  obtain ⟨asked, hasked, hserve⟩ := serve_queued b data hq s tag
  refine exec_settled h c hc (asks_fits hop)
    (x := s.setQueue { s.queue with entries := s.queue.entries ++ [Entry.fresh tag op] }) rfl ?_
  rw [hserve, (hasked op).mpr hop, State.admission_admits hadmits]

/-- Settles O44: each of the nine kinds is appended (`exec_appends`); the starting addresses are those of `Op.start`. -/
theorem queuedRequestsAreAppended : Obligations.QueuedRequestsAreAppended := by
  intro tag data op s h hadmits accepted
  have appended (c : Instr) {b : RequestBody} (hc : c.request? = some ⟨tag, b, data⟩) (hq : b.queued = true)
      (hop : b.Asks data op) : exec c s = accepted := exec_appends h c hc hq hadmits hop
  exact ⟨fun _ => appended _ rfl rfl, fun _ _ => appended _ rfl rfl, fun _ _ _ => appended _ rfl rfl,
    fun _ => appended _ rfl rfl, fun _ => appended _ rfl rfl, fun _ => appended _ rfl rfl,
    fun _ => appended _ rfl rfl, fun _ _ => appended _ rfl rfl, fun _ => appended _ rfl rfl,
    fun _ _ _ _ => ⟨rfl, rfl, rfl⟩, fun _ _ _ _ => ⟨fun _ _ => rfl, fun _ => rfl⟩,
    fun _ _ _ _ _ _ _ => ⟨fun _ => rfl, rfl⟩, fun _ _ _ _ _ _ _ => rfl, fun _ _ _ => ⟨rfl, rfl, rfl⟩⟩

end Sys2Proof.Machine
end

/-! ## The request queue: cancels and the ends of waits (R57, R58, R63-R66, R92) -/
section
namespace Sys2Proof.Machine

variable {s : State} {e : Entry}

/-! ### The cancel of the ACTIVE entry (R57, R58) -/

/-- A mark that is set already is unchanged. -/
theorem State.cancelActive_again (hc : e.cancel = true) : s.cancelActive e = s := if_pos hc

/-- An element started carries the mark to its boundary. -/
theorem State.cancelActive_started (hc : e.cancel = false) (ht : e.timer = none) (hs : s.entryStarted = true) :
    s.cancelActive e = s.mapActive fun e => { e with cancel := true } := by
  have runs : (s.mapActive fun e => { e with cancel := true }).entryStarted = true := hs
  simp [State.cancelActive, hc, ht, runs]

/-- The ACTIVE entry as a mark ends it at once. -/
def State.activeCancelled (s : State) : State :=
  s.mapActive fun e => { e with cancel := true, state := .cancelled, timer := none }

section
variable (hc : e.cancel = false) (h : e.timer ≠ none ∨ s.entryStarted = false)
include hc h

/-- In a wait, or with no element started, the mark ends the entry, and a SlotReset releases SRESET. -/
theorem State.cancelActive_ends :
    s.cancelActive e = match e.op with | .slotReset _ => s.activeCancelled.sresetReleased | _ => s.activeCancelled := by
  have now : (e.timer.isSome || !s.entryStarted) = true := by
    simpa [Option.isSome_iff_ne_none] using h
  unfold State.cancelActive
  rw [if_neg (by simp [hc])]
  exact (if_pos now).trans (by rw [State.endActive_marked]; rfl)

theorem State.cancelActive_slotReset {d : Nat} (ho : e.op = .slotReset d) :
    s.cancelActive e = s.activeCancelled.sresetReleased := by
  rw [State.cancelActive_ends hc h, ho]

theorem State.cancelActive_plain (ho : ∀ d, e.op ≠ .slotReset d) : s.cancelActive e = s.activeCancelled := by
  rw [State.cancelActive_ends hc h]
  cases hop : e.op with
  | slotReset d => exact absurd hop (ho d)
  | _ => rfl
end

/-! ### QUEUE_CANCEL by what its target is (R57) -/

section
variable (tag : Word) {target : Word}

theorem State.takeQueueCancel_notFound (h : ∀ e ∈ s.queue.entries, e.tag ≠ target) :
    s.takeQueueCancel tag target [] = s.refuse 0x43 tag .notFound := by
  have missing : (s.queue.entries.find? fun e => e.tag == target) = none :=
    List.find?_eq_none.mpr fun e he => by simpa using h e he
  simp only [State.takeQueueCancel, State.noData, if_true, missing]

variable (hf : s.queue.entries.find? (fun e => e.tag == target) = some e)
include hf

theorem State.takeQueueCancel_tooLate (h : e.isFinished = true) :
    s.takeQueueCancel tag target [] = s.refuse 0x43 tag .tooLate := by
  simp only [State.takeQueueCancel, State.noData, if_true, hf]
  cases hs : e.state with
  | queued | active => simp [Entry.isFinished, hs] at h
  | _ => rfl

theorem State.takeQueueCancel_queued (h : e.state = .queued) :
    s.takeQueueCancel tag target [] =
      ((s.setQueue (s.queue.mapTag target fun e => { e with state := .cancelled })).readied 0xC3 tag
        (.cancel false)).settleBlocks := by
  simp only [State.takeQueueCancel, State.noData, if_true, hf, h]
  rfl

theorem State.takeQueueCancel_active (h : e.state = .active) :
    s.takeQueueCancel tag target [] = ((s.cancelActive e).readied 0xC3 tag (.cancel true)).settleBlocks := by
  simp only [State.takeQueueCancel, State.noData, if_true, hf, h]
  rfl
end

/-- Settles O42: the target by its state, then the ACTIVE entry by its mark and by what it runs. -/
theorem queueCancelByState : Obligations.QueueCancelByState := by
  intro tag target s h
  have fits : RequestBody.size (.queueCancel target) + ([] : List Byte).length ≤ 1094 := by simp [RequestBody.size]
  have refused {st : Status} (hs : s.takeQueueCancel tag target [] = s.refuse 0x43 tag st) :
      exec (.queueCancel tag target []) s = .next (s.replied ⟨0xC3, st, tag, .none⟩) :=
    exec_answered h _ rfl fits rfl hs
  refine ⟨fun hn => refused (State.takeQueueCancel_notFound tag hn), fun e hf => ?_⟩
  intro started ended
  have idle : ¬ started → s.entryStarted = false := fun hn =>
    Bool.eq_false_iff.mpr fun hs => hn (s.entryStarted_iff.mp hs)
  have active {x : State} (ha : e.state = .active) (hx : x.link = s.link) (hs : s.cancelActive e = x) :
      exec (.queueCancel tag target []) s = .next (x.readied 0xC3 tag (.cancel true)).settle :=
    exec_readied h _ rfl fits hx (hs ▸ State.takeQueueCancel_active tag hf ha)
  refine ⟨fun hfin => refused (State.takeQueueCancel_tooLate tag hf hfin), fun hq => ?_, fun ha hc => ?_,
    fun ha hc ht hs => ?_, fun ha hc hw ho => ?_, fun d ha hc hw ho => ?_⟩
  · exact exec_readied h _ rfl fits
      (x := s.setQueue (s.queue.mapTag target fun e => { e with state := .cancelled })) rfl
      (State.takeQueueCancel_queued tag hf hq)
  · exact active ha rfl (State.cancelActive_again hc)
  · exact active ha rfl (State.cancelActive_started hc ht (s.entryStarted_iff.mpr hs))
  · exact active ha rfl (State.cancelActive_plain hc (hw.imp_right idle) ho)
  · exact active ha s.activeCancelled.link_sresetReleased
      (State.cancelActive_slotReset hc (hw.imp_right idle) ho)

/-! ### Expiries (R63, R64, R66, R92, R101) -/

theorem State.activeIs_running (ha : s.queue.active = some e) (ht : e.timer ≠ none) {p : Op → Bool}
    (hp : p e.op = true) : s.activeIs p = true := by
  simp [State.activeIs, ha, hp, Option.isSome_iff_ne_none, ht]

theorem State.activeIs_none (ha : s.queue.active = none) (p : Op → Bool) : ¬ s.activeIs p = true := by
  simp [State.activeIs, ha]

/-! ### The delivery of an event (R64) -/

theorem State.deliver_awaited {src : AwaitSource} {ms : Nat} (ha : s.queue.active = some e)
    (ho : e.op = .await src ms) :
    s.deliver src = s.endActive .done := by
  simp only [State.deliver, ha, ho, if_true]

theorem State.deliver_other {src : AwaitSource} (h : ∀ e ms, s.queue.active = some e → e.op ≠ .await src ms) :
    s.deliver src = s := by
  unfold State.deliver
  split
  · rename_i e ha
    split
    · rename_i src' ms ho
      exact if_neg fun hsrc : src' = src => h e ms ha (hsrc ▸ ho)
    · rfl
  · rfl

/-- Settles O45: the expiry of the wait that runs (`State.activeIs_running`), the expiry with nothing ACTIVE, the
interval of an action, the delivery by whether the ACTIVE entry awaits its source. -/
theorem waitsEndAtTheirExpiry : Obligations.WaitsEndAtTheirExpiry := by
  refine ⟨fun s e ha ht => ?_, ⟨fun s ha => ?_, fun s n hn => ?_⟩,
    fun s src => ⟨fun e ms => State.deliver_awaited, State.deliver_other⟩⟩
  · intro done
    refine ⟨fun d ho => next_settle_congr ?_, fun src ms ho => next_settle_congr ?_,
      fun c st n cond o m i cap ho => next_settle_congr ?_, fun d ho => next_settle_congr ?_⟩ <;>
      exact if_pos (State.activeIs_running ha ht (by rw [ho]))
  · refine ⟨next_settle_congr ?_, next_settle_congr ?_, next_settle_congr ?_, next_settle_congr ?_⟩ <;>
      exact if_neg (State.activeIs_none ha _)
  · refine next_settle_congr ?_
    simp only [State.scanIntervalExpiry, hn]

end Sys2Proof.Machine
end

/-! ## The boundary of an element (R58, R60, R62, R68, R76, R78, R83, R90, R96, R109-R113) -/
section
namespace Sys2Proof.Machine

variable {s : State}

/-! ### The pointers (R1, R77, R78) -/

theorem wrapAddress_natCast (sp : Space) (a : Nat) : wrapAddress sp (a : Int) = a % spaceSize sp := by
  rw [wrapAddress, ← Int.natCast_emod, Int.toNat_natCast]

theorem stepCard_inc (w : Width) (sp : Space) (a : Nat) : stepCard .inc w sp a = (a + w.bytes) % spaceSize sp :=
  wrapAddress_natCast sp (a + w.bytes)

/-- A step down from the bottom of a space wraps to its top: the width is no larger than the space. -/
theorem stepCard_dec (w : Width) (sp : Space) (a : Nat) :
    stepCard .dec w sp a = (a + spaceSize sp - w.bytes) % spaceSize sp := by
  have small : w.bytes ≤ a + spaceSize sp := by cases w <;> cases sp <;> simp only [Width.bytes, spaceSize] <;> omega
  have shifted : ((a + spaceSize sp - w.bytes : Nat) : Int) = ((a : Int) - w.bytes) + spaceSize sp := by omega
  rw [← wrapAddress_natCast, shifted]
  simp only [stepCard, wrapAddress, Int.add_emod_right]

/-! ### The record of an entry after an element (R58, R83, R90, R92) -/

/-- The entry whose work is not complete: CANCELLED when marked, else on through its interval. -/
def Entry.goesOn (e : Entry) (p : Progress) (r : Gathered) (interval : Nat) : Entry :=
  if e.cancel then { e with progress := p, result := r, state := .cancelled }
  else { e with progress := p, result := r, timer := if interval = 0 then none else some interval }

/-- The boundary of an entry of the operation, by whether its work is complete. -/
theorem Entry.boundary_eq {e : Entry} {op : Op} (ho : e.op = op) {v1 v2 : Word} {p : Progress} {r : Gathered}
    {complete : Bool} (h : op.advance e.progress e.result v1 v2 = (p, r, complete)) {P : Prop} [Decidable P]
    (hP : complete = true ↔ P) :
    e.boundary v1 v2 =
      if P then { e with progress := p, result := r, state := .done } else e.goesOn p r op.interval := by
  subst ho
  simp only [Entry.boundary, h, hP]
  rfl

/-- The boundary of an operation of one element. -/
theorem Entry.boundary_one {e : Entry} {op : Op} (ho : e.op = op) {v1 v2 : Word} {p : Progress} {r : Gathered}
    (h : op.advance e.progress e.result v1 v2 = (p, r, true)) :
    e.boundary v1 v2 = { e with progress := p, result := r, state := .done } :=
  (Entry.boundary_eq ho h Iff.rfl).trans (if_pos rfl)

/-- What a Transfer's element adds to the result: an inline IN appends the value's bytes, low byte first (R80). -/
def Gathered.transferred (r : Gathered) (dir : Direction) (side : MemorySide) (w : Width) (v : Word) : Gathered :=
  match dir, side, w with
  | .into, .inline _, .one => { r with data := r.data ++ [v.extractLsb' 0 8] }
  | .into, .inline _, .two => { r with data := r.data ++ [v.extractLsb' 0 8, v.extractLsb' 8 8] }
  | _, _, _ => r

theorem Op.advance_transfer (dir : Direction) (c : CardSide) (st : Step) (n : Nat) (side : MemorySide) (p : Progress)
    (r : Gathered) (v1 v2 : Word) :
    (Op.transfer dir c st n side).advance p r v1 v2 =
      (⟨p.done + 1, stepCard st c.width c.space p.card,
          match side with | .base _ ms => stepMemory ms c.width p.mem | .inline _ => p.mem + c.width.bytes⟩,
        r.transferred dir side c.width v1, p.done + 1 == n) := by
  obtain ⟨space, address, width⟩ := c
  cases dir with
  | out => rfl
  | into =>
    cases side with
    | base => rfl
    | inline => cases width <;> rfl

theorem Op.advance_scan (c : CardSide) (st : Step) (n : Nat) (cond : Condition) (o m : Word) (i : Nat)
    (cap : Option Nat) (p : Progress) (r : Gathered) (v1 v2 : Word) :
    (Op.scan c st n cond o m i cap).advance p r v1 v2 =
      (⟨p.done + 1, stepCard st c.width c.space p.card,
          match cap with | some _ => p.mem + c.width.bytes | none => p.mem⟩,
        { r with values := some (v1, 0), matched := cond.holds c.width v1 o m, exhausted := p.done + 1 == n },
        cond.holds c.width v1 o m || p.done + 1 == n) := by
  cases cap <;> rfl

/-! ### The boundary of a line action (R101, R109, R110, R113) -/

/-- A change of the state beside the request queue comes before or after a delivery alike. -/
theorem State.deliver_comm (f : State → State) (hq : ∀ t, (f t).queue = t.queue)
    (hf : ∀ t q, f (t.setQueue q) = (f t).setQueue q) (s : State) (src : AwaitSource) :
    (f s).deliver src = f (s.deliver src) := by
  have ended : (f s).endActive .done = f (s.endActive .done) := by
    rw [State.endActive, State.endActive, State.mapActive, State.mapActive, hq, hf]
  simp only [State.deliver, hq, ended]
  repeat' split
  all_goals rfl

theorem State.setLine_deliver (s : State) (src : AwaitSource) (n : Fin 8) (l : Line) :
    (s.deliver src).setLine n l = (s.setLine n l).deliver src :=
  (State.deliver_comm (fun t => t.setLine n l) (fun _ => rfl) (fun _ _ => rfl) s src).symm

theorem State.setEngineState_deliver (s : State) (src : AwaitSource) (st : EngineState) :
    (s.deliver src).setEngineState st = (s.setEngineState st).deliver src :=
  (State.deliver_comm (fun t => t.setEngineState st) (fun _ => rfl) (fun _ _ => rfl) s src).symm

/-- The line's action and what it has done, as an entry whose boundary the action goes by. -/
def Line.asEntry (l : Line) (op : Op) : Entry := ⟨0, op, .active, false, l.progress, l.result, none, none⟩

/-- The line's state after its action has run to its end (R110). -/
def Line.afterAction (l : Line) : LineState :=
  match l.service with | .hold => .inService | .auto => if l.again then .pending else .idle

/-- The line's `again` after its action has run to its end (R110). -/
def Line.againAfter (l : Line) : Bool := match l.service with | .hold => l.again | .auto => false

/-- A notice of the run, then the line's record with no edge counted (R110, R113). -/
theorem State.actionSuccess_eq (s : State) (n : Fin 8) :
    s.actionSuccess n =
      State.deliver ((s.setLine n { s.line n with
          interval := none, edges := 0, state := (s.line n).afterAction, again := (s.line n).againAfter }).setNotices
        (postTo s.notices (.line n) (.line ⟨n, (s.line n).edges, .ok, (s.line n).runResult, false⟩))) (.line n) := by
  have posted (l l' : Line) (x : State) (b : NoticeBody) :
      ((x.setLine n l).post (.line n) b).setLine n l' = (x.setLine n l').setNotices (postTo x.notices (.line n) b) := by
    rw [← State.setLine_setLine x n l l']
    rfl
  unfold State.actionSuccess State.postLine
  dsimp only
  simp only [State.line_deliver, State.line_post, State.line_setLine_same]
  cases hs : (s.line n).service with
  | hold => simp only [State.setLine_deliver, posted, Line.afterAction, Line.againAfter, hs]
  | auto =>
    cases ha : (s.line n).again <;>
      simp [State.setLine_deliver, posted, Line.afterAction, Line.againAfter, hs, ha]

section
variable {n : Fin 8} {op : Op} (ha : (s.line n).action = some op) {v1 v2 : Word}
include ha

/-- An action whose work is not complete goes on, through its interval if it has one (R101). -/
theorem State.actionBoundary_goesOn {x : Entry} (hx : ((s.line n).asEntry op).boundary v1 v2 = x)
    (hs : x.state = .active) :
    s.actionBoundary n v1 v2 =
      s.setLine n { s.line n with progress := x.progress, result := x.result, interval := x.timer } := by
  subst hx
  rcases hadv : op.advance (s.line n).progress (s.line n).result v1 v2 with ⟨p, r, complete⟩
  have boundary := Entry.boundary_eq (e := (s.line n).asEntry op) rfl hadv Iff.rfl
  cases complete with
  | true => rw [boundary] at hs; exact absurd hs nofun
  | false =>
    rw [boundary]
    simp only [State.actionBoundary, ha, hadv]
    rfl

/-- An action whose work is complete succeeds: its notice with the result of the run, the line's record by its service,
the engine idle (R110, R113). -/
theorem State.actionBoundary_ends {x : Entry} (hx : ((s.line n).asEntry op).boundary v1 v2 = x)
    (hs : x.state ≠ .active) :
    s.actionBoundary n v1 v2 =
      State.deliver (((s.setEngineState .idle).setLine n { s.line n with
          progress := x.progress, result := x.result, interval := none, edges := 0
          state := (s.line n).afterAction, again := (s.line n).againAfter }).setNotices
        (postTo s.notices (.line n)
          (.line ⟨n, (s.line n).edges, .ok, some ⟨op.kind, x.progress, x.result⟩, false⟩))) (.line n) := by
  subst hx
  rcases hadv : op.advance (s.line n).progress (s.line n).result v1 v2 with ⟨p, r, complete⟩
  have boundary := Entry.boundary_eq (e := (s.line n).asEntry op) rfl hadv Iff.rfl
  cases complete with
  | false => rw [boundary] at hs; exact absurd rfl hs
  | true =>
    rw [boundary]
    simp only [State.actionBoundary, ha, hadv, if_true, State.actionSuccess_eq, State.line_setLine_same,
      State.setLine_setLine, State.setEngineState_deliver, Line.runResult, Option.map_some]
    rfl
end

/-! ### By whose element it is (R60, R62, R68, R112) -/

/-- What a failed element leaves of a result: the values it read, if any (R75). -/
def Gathered.withValues (r : Gathered) (values : Option (Word × Word)) : Gathered :=
  match values with | some v => { r with values := some v } | none => r

/-- The line FAULTED, with a notice of the fail record (R112). -/
theorem State.itemFailed_line (s : State) (n : Fin 8) (f : FailRecord) (values : Option (Word × Word)) :
    s.itemFailed (.line n) f values =
      State.deliver (((s.setEngine ⟨.idle, none⟩).setLine n { s.line n with
          state := .faulted, interval := none, edges := 0, result := (s.line n).result.withValues values }).setNotices
        (postTo s.notices (.line n) (.line ⟨n, (s.line n).edges, .failed f,
          (s.line n).action.map fun op => ⟨op.kind, (s.line n).progress, (s.line n).result.withValues values⟩,
          false⟩))) (.line n) := by
  simp only [State.itemFailed, State.actionFailure, State.postLine, State.line_setLine_same, State.setLine_setLine,
    State.setEngineState_deliver]
  cases values <;> rfl

/-- Settles O46: the record by the entry's operation (`Entry.boundary_eq`), the pointers, then the boundary and the
failure by whose element it is. -/
theorem boundaryOfAnEntry : Obligations.BoundaryOfAnEntry := by
  refine ⟨fun e v1 v2 => ?_, fun w sp a i => ?_, fun s e v1 v2 => ?_, fun s item f values => ?_⟩
  · intro x done goesOn
    refine ⟨fun c ho => ?_, fun c v ho => ?_, fun c a o ho => ?_, fun dir c st n side ho => ?_,
      fun c st n cond o m i cap ho => ?_, fun c st off ms n cond m ho => ?_⟩
    · exact Entry.boundary_one ho rfl
    · exact Entry.boundary_one ho rfl
    · exact Entry.boundary_one ho rfl
    · exact Entry.boundary_eq ho (Op.advance_transfer dir c st n side e.progress e.result v1 v2) beq_iff_eq
    · exact Entry.boundary_eq ho (Op.advance_scan c st n cond o m i cap e.progress e.result v1 v2)
        (Bool.or_eq_true_iff.trans (or_congr_right beq_iff_eq))
    · exact Entry.boundary_eq ho rfl (Bool.or_eq_true_iff.trans (or_congr_right beq_iff_eq))
  · cases sp with
    | memory => exact ⟨rfl, stepCard_inc w _ a, stepCard_dec w _ a, rfl, rfl⟩
    | io => exact ⟨rfl, stepCard_inc w _ a, stepCard_dec w _ a, rfl, rfl⟩
  · intro y
    refine ⟨fun hi => s.elementBoundary_entry hi v1 v2, fun hi => ?_, fun n op hi ha => ?_⟩
    · simp only [State.elementBoundary, hi]
      rfl
    · intro l x
      have acts : s.elementBoundary e v1 v2 = y.actionBoundary n v1 v2 := by simp only [State.elementBoundary, hi]; rfl
      exact ⟨fun hx => acts.trans (State.actionBoundary_goesOn (s := y) ha rfl hx),
        fun hx => acts.trans (State.actionBoundary_ends (s := y) ha rfl hx)⟩
  · intro y kept
    refine ⟨fun hi => ?_, fun hi => ?_, fun n hi => ?_⟩
    · subst hi
      rw [State.itemFailed_entry]
      cases values <;> rfl
    · subst hi
      rfl
    · subst hi
      exact s.itemFailed_line n f values

end Sys2Proof.Machine
end

/-! ## The conditions of Scan and Compare (R87) -/
section
namespace Sys2Proof.Machine

/-- The two's complement of R87: of a value within the width, those from half of the range on stand for negative
numbers. -/
theorem signedValue_eq_of_lt {w : Width} {x : Word} (hx : x.toNat < 256 ^ w.bytes) :
    signedValue w x = if x.toNat < 256 ^ w.bytes / 2 then (x.toNat : Int)
      else (x.toNat : Int) - 2 * ((256 ^ w.bytes / 2 : Nat) : Int) := by
  cases w with
  | one =>
    have small : x.toNat < 2 ^ 8 := hx
    have low : (x.setWidth 8).toNat = x.toNat := by rw [BitVec.toNat_setWidth, Nat.mod_eq_of_lt small]
    simp only [signedValue, BitVec.toInt_eq_toNat_cond, low, Width.bytes]
    omega
  | two =>
    simp only [signedValue, BitVec.toInt_eq_toNat_cond, Width.bytes]
    omega

/-- Settles O47: equality and order of words are those of their numbers, and a value cut to the width has the signed
number of the width (`signedValue_eq_of_lt`). -/
theorem conditionsCompareMaskedValues : Obligations.ConditionsCompareMaskedValues := by
  intro w value second mask e v half signed
  have signed_e : signedValue w (w.trim (value &&& mask)) = signed e := signedValue_eq_of_lt (w.trim_lt _)
  have signed_v : signedValue w (w.trim (second &&& mask)) = signed v := signedValue_eq_of_lt (w.trim_lt _)
  refine ⟨?eq, ?ne, ?ult, ?ule, ?ugt, ?uge, ?slt, ?sge, ?any, ?none⟩
  case eq | none => exact beq_iff_eq.trans BitVec.toNat_inj.symm
  case ne | any => exact bne_iff_ne.trans BitVec.toNat_ne_iff_ne.symm
  case ult | ule | ugt | uge => exact decide_eq_true_iff
  case slt | sge => rw [← signed_e, ← signed_v]; exact decide_eq_true_iff

end Sys2Proof.Machine
end

/-! ## The interrupt lines: LINE_SET, LINE_END and the edges of SINT (R104-R108, R115-R118) -/
section
namespace Sys2Proof.Machine

variable {s : State} {n : Fin 8} {l : Line}

/-! ### Events of a line that has just been written (R106-R108) -/

/-- The state of a line without an action once its notice is posted (R108). -/
def Service.afterNotice : Service → LineState
  | .hold => .inService
  | .auto => .idle

/-- Line n holds the record `l`, whose counted edges go out in a notice without an action (R107, R108). -/
def State.lineNotice (s : State) (n : Fin 8) (l : Line) : State :=
  ((s.setLine n { l with state := l.service.afterNotice, edges := 0 }).setNotices
    (postTo s.notices (.line n) (.line ⟨n, l.edges, .none, none, false⟩))).deliver (.line n)

@[simp] theorem State.link_lineNotice (s : State) (n : Fin 8) (l : Line) : (s.lineNotice n l).link = s.link :=
  State.link_deliver _ _

theorem State.line_lineNotice (s : State) (n : Fin 8) (l : Line) :
    (s.lineNotice n l).line n = { l with state := l.service.afterNotice, edges := 0 } :=
  (State.line_deliver _ _ _).trans (s.line_setLine_same n _)

theorem State.lineToPending_action (ha : l.action ≠ none) :
    (s.setLine n l).lineToPending n = s.setLine n { l with state := .pending } := by
  obtain ⟨op, ha⟩ := Option.ne_none_iff_exists'.mp ha
  simp only [State.lineToPending, State.line_setLine_same, State.setLine_setLine, ha]

theorem State.lineToPending_notice (ha : l.action = none) :
    (s.setLine n l).lineToPending n = s.lineNotice n l := by
  simp only [State.lineToPending, State.postLine, State.lineNotice, State.line_setLine_same, State.setLine_setLine, ha]
  rfl

theorem State.lineEvent_setLine_idle (hs : l.state = .idle) :
    (s.setLine n l).lineEvent n = (s.setLine n { l with edges := min 255 (l.edges + 1) }).lineToPending n := by
  simp only [State.lineEvent, State.line_setLine_same, State.setLine_setLine, hs, addEdges, saturate, Nat.min_comm]

/-- While an earlier event is being served, a new one is remembered (R106). -/
theorem State.lineEvent_setLine_again
    (hs : l.state = .pending ∨ l.state = .acting ∨ l.state = .inService ∨ l.state = .faulted) :
    (s.setLine n l).lineEvent n = s.setLine n { l with edges := min 255 (l.edges + 1), again := true } := by
  rcases hs with hs | hs | hs | hs <;>
    simp only [State.lineEvent, State.line_setLine_same, State.setLine_setLine, hs, addEdges, saturate, Nat.min_comm]

/-! ### LINE_SET (R116, R117) -/

section
variable (tag : Word) {f : LineFields} {data : List Byte} {c : LineConfig}

theorem State.takeLineSet_badField (hn : ∀ n c, ¬ f.Asks data n c) :
    s.takeLineSet tag f data = s.refuse 0x30 tag .badField := by
  simp only [State.takeLineSet, none_of_asks (fun _ _ => checkLine_some) hn]

theorem State.takeLineSet_busy (hc : f.Asks data n c) (hs : (s.line n).state = .acting) :
    s.takeLineSet tag f data = s.refuse 0x30 tag .busy := by
  simp only [State.takeLineSet, checkLine_some.mpr hc, hs, if_true]

/-- The configuration is replaced, then the level rule looks at the new record. -/
theorem State.takeLineSet_replaces (hc : f.Asks data n c) (hs : (s.line n).state ≠ .acting) :
    s.takeLineSet tag f data =
      (((s.setLine n ((s.line n).reconfigured c)).lineLevelRule n).readied 0xB0 tag .none).settleBlocks := by
  simp only [State.takeLineSet, checkLine_some.mpr hc, hs, if_false]
  rfl
end

/-- A new record is due as its configuration, the level of its SINT and SRESET say: its state is IDLE. -/
theorem State.levelDue_reconfigured {c : LineConfig} : (s.setLine n (l.reconfigured c)).LevelDue n ↔
    c.role = .interrupt ∧ c.mode = .level ∧ l.level = true ∧ s.sreset = .released := by
  simp only [State.LevelDue, State.line_setLine_same, Line.reconfigured, Line.initial]
  constructor
  · rintro ⟨hrole, hmode, _, hlevel, hreset⟩
    exact ⟨hrole, hmode, hlevel, hreset⟩
  · rintro ⟨hrole, hmode, hlevel, hreset⟩
    exact ⟨hrole, hmode, by simp [hrole], hlevel, hreset⟩

/-- Settles O32: the checks, then the new record by whether its level event is due (`State.levelDue_reconfigured`). -/
theorem lineSetReplacesTheRecord : Obligations.LineSetReplacesTheRecord := by
  intro tag f data s h hw
  have fits : RequestBody.size (.lineSet f) + data.length ≤ 1094 := by
    have := HostRequest.length_le hw
    simp only [HostRequest.length] at this
    omega
  have refused {st : Status} (hs : s.takeLineSet tag f data = s.refuse 0x30 tag st) :
      exec (.lineSet tag f data) s = .next (s.replied ⟨0xB0, st, tag, .none⟩) :=
    exec_answered h _ rfl fits rfl hs
  refine ⟨fun hn => refused (State.takeLineSet_badField tag hn), fun n c hc => ?_⟩
  intro l fresh event
  refine ⟨fun ha => refused (State.takeLineSet_busy tag hc ha), fun ha => ?_⟩
  have replaced {x : State} (hx : (s.setLine n (l.reconfigured c)).lineLevelRule n = x) :
      exec (.lineSet tag f data) s = .next (x.readied 0xB0 tag .none).settle :=
    exec_readied h _ rfl fits (hx ▸ State.link_lineLevelRule _ n) (hx ▸ State.takeLineSet_replaces tag hc ha)
  have taken (he : event) : (s.setLine n (l.reconfigured c)).lineLevelRule n =
      (s.setLine n { l.reconfigured c with edges := 1 }).lineToPending n := by
    have due : (s.setLine n (l.reconfigured c)).LevelDue n := State.levelDue_reconfigured.mpr he
    have idle : (l.reconfigured c).state = .idle := by simpa only [State.line_setLine_same] using due.idle
    exact (State.lineLevelRule_due due).trans (State.lineEvent_setLine_idle idle)
  refine ⟨fun he => ?_, fun he hact => ?_, fun he hact => ?_⟩
  · exact replaced (State.lineLevelRule_notDue (mt State.levelDue_reconfigured.mp he))
  · exact replaced ((taken he).trans (State.lineToPending_action hact))
  · have ⟨hrole, hmode, _⟩ := he
    have holds : c.service.afterNotice = .inService := by rw [hc.levelHolds hrole hmode]; rfl
    refine replaced ((taken he).trans ((State.lineToPending_notice hact).trans ?_))
    simp only [State.lineNotice, Line.reconfigured, holds]
    rfl

/-! ### LINE_END (R115) -/

/-- SINT of a LEVEL line is still asserted, with SRESET released: the release of the line is an event. -/
abbrev State.LevelHeld (s : State) (n : Fin 8) : Prop :=
  (s.line n).mode = .level ∧ (s.line n).level = true ∧ s.sreset = .released

/-- The edges counted when the line is released. -/
def State.releaseEdges (s : State) (n : Fin 8) : Nat :=
  if s.LevelHeld n then min 255 ((s.line n).edges + 1) else (s.line n).edges

theorem State.lineRelease_eq (s : State) (n : Fin 8) : s.lineRelease n =
    if (s.line n).again = true ∨ s.LevelHeld n then
      (s.setLine n { s.line n with again := false, edges := s.releaseEdges n }).lineToPending n
    else s.setLine n { s.line n with state := .idle } := by
  have held : ((s.line n).mode == .level && (s.line n).level && !s.inSlotReset) = decide (s.LevelHeld n) := by
    rw [Bool.eq_iff_iff]
    simp [State.inSlotReset_false, and_assoc]
  simp only [State.lineRelease, held, State.releaseEdges, Bool.or_eq_true, decide_eq_true_eq, addEdges, saturate,
    Nat.min_comm]

theorem State.lineRelease_idle (ha : (s.line n).again = false) (he : ¬ s.LevelHeld n) :
    s.lineRelease n = s.setLine n { s.line n with state := .idle } :=
  (s.lineRelease_eq n).trans (if_neg (by simp [ha, he]))

theorem State.lineRelease_again (ha : (s.line n).again = true ∨ s.LevelHeld n) :
    s.lineRelease n = (s.setLine n { s.line n with again := false, edges := s.releaseEdges n }).lineToPending n :=
  (s.lineRelease_eq n).trans (if_pos ha)

section
variable (tag : Word) {b : Byte}

theorem State.takeLineEnd_badField (hb : 8 ≤ b.toNat) : s.takeLineEnd tag b [] = s.refuse 0x31 tag .badField := by
  simp only [State.takeLineEnd, State.noData, finOf_none.mpr hb, if_true]

variable (hb : b.toNat = n)
include hb

theorem State.takeLineEnd_state (hi : (s.line n).state ≠ .inService) (hf : (s.line n).state ≠ .faulted) :
    s.takeLineEnd tag b [] = s.refuse 0x31 tag .state := by
  simp only [State.takeLineEnd, State.noData, finOf_some.mpr hb, hi, hf, or_self, if_true, if_false]

theorem State.takeLineEnd_releases (hs : (s.line n).state = .inService ∨ (s.line n).state = .faulted) :
    s.takeLineEnd tag b [] = ((s.lineRelease n).readied 0xB1 tag
      (.lineState ((s.lineRelease n).line n).state)).settleBlocks := by
  simp only [State.takeLineEnd, State.noData, finOf_some.mpr hb, hs, if_true]
  rfl
end

/-- Settles O33: the refusals, then the release by whether an event is left (`State.lineRelease_eq`) and, if so, by
whether the line has an action. -/
theorem lineEndReleases : Obligations.LineEndReleases := by
  intro tag b s h
  have fits : RequestBody.size (.lineEnd b) + ([] : List Byte).length ≤ 1094 := by simp [RequestBody.size]
  have refused {st : Status} (hs : s.takeLineEnd tag b [] = s.refuse 0x31 tag st) :
      exec (.lineEnd tag b []) s = .next (s.replied ⟨0xB1, st, tag, .none⟩) :=
    exec_answered h _ rfl fits rfl hs
  refine ⟨fun hb => refused (State.takeLineEnd_badField tag hb), fun n hb => ?_⟩
  intro l event edges
  refine ⟨fun hi hf => refused (State.takeLineEnd_state tag hb hi hf), fun hs => ?_⟩
  have released {x : State} {st : LineState} (hx : s.lineRelease n = x) (hlink : x.link = s.link)
      (hst : (x.line n).state = st) :
      exec (.lineEnd tag b []) s = .next (x.readied 0xB1 tag (.lineState st)).settle := by
    subst hx hst
    exact exec_readied h _ rfl fits hlink (State.takeLineEnd_releases tag hb hs)
  refine ⟨fun ha he => ?_, fun ha hact => ?_, fun ha hact => ?_⟩
  · exact released (State.lineRelease_idle ha he) rfl (congrArg _ (s.line_setLine_same n _))
  · exact released ((State.lineRelease_again ha).trans (State.lineToPending_action hact)) rfl
      (congrArg _ (s.line_setLine_same n _))
  · have noticed : s.lineRelease n = s.lineNotice n { l with again := false, edges := edges } :=
      (State.lineRelease_again ha).trans (State.lineToPending_notice hact)
    exact (released noticed (s.link_lineNotice n _) (congrArg Line.state (s.line_lineNotice n _)) :)

/-! ### SINT_RISE and SINT_FALL (R104, R105, R118) -/

/-- The record after SINT has risen, the remembered level alone moved. -/
def Line.raised (l : Line) : Line := { l with level := true }

theorem State.sintRise_asserted (hl : (s.line n).level = true) : s.sintRise n = s := if_pos hl

section
variable (hl : (s.line n).level = false)
include hl

/-- An edge is taken by the line's role, but not while SRESET is asserted or a part reset runs. -/
theorem State.sintRise_edge :
    s.sintRise n =
      if s.sreset ≠ .released ∨ s.link.resetting = true then s.setLine n (s.line n).raised
      else match (s.line n).role with
        | .disabled => s.setLine n (s.line n).raised
        | .interrupt => (s.setLine n (s.line n).raised).lineEvent n
        | .trigger => (s.setLine n (s.line n).raised).triggerEdge n :=
  (if_neg (by simp [hl])).trans (if_congr (or_congr bne_iff_ne Iff.rfl) rfl rfl)

theorem State.sintRise_ignored
    (hq : s.sreset ≠ .released ∨ s.link.resetting = true ∨ (s.line n).role = .disabled) :
    s.sintRise n = s.setLine n (s.line n).raised := by
  rw [State.sintRise_edge hl]
  split
  · rfl
  · next heard =>
    have disabled : (s.line n).role = .disabled := (or_assoc.mpr hq).resolve_left heard
    simp only [disabled]

variable (hs : s.sreset = .released) (hp : s.link.resetting = false)
include hs hp

theorem State.sintRise_interrupt (hr : (s.line n).role = .interrupt) :
    s.sintRise n = (s.setLine n (s.line n).raised).lineEvent n := by
  simp [State.sintRise_edge hl, hs, hp, hr]

theorem State.sintRise_trigger (hr : (s.line n).role = .trigger) :
    s.sintRise n = (s.setLine n (s.line n).raised).triggerEdge n := by
  simp [State.sintRise_edge hl, hs, hp, hr]
end

theorem State.triggerEdge_begins (h : s.watch.trigger = some n ∧ s.watch.state ≠ .stopped) :
    s.triggerEdge n = s.watchBegin := if_pos h

theorem State.triggerEdge_ignored (h : s.watch.trigger ≠ some n ∨ s.watch.state = .stopped) : s.triggerEdge n = s :=
  if_neg fun ⟨ht, hw⟩ => h.elim (· ht) hw

/-- Settles O34: a level that stands, an edge that nothing takes (`State.sintRise_ignored`), then the edge by the role
and, on an INTERRUPT line, by its state. -/
theorem sintEdgesByRole : Obligations.SintEdgesByRole := by
  intro n s l
  refine ⟨rfl, fun hl => ?_, fun hl hq => ?_, fun hl hs hp => ⟨fun hr ht => ?_, fun hr ht => ?_, fun hr => ?_⟩⟩
  · exact next_settle_congr (State.sintRise_asserted hl)
  · exact next_settle_congr (State.sintRise_ignored hl hq)
  · exact next_settle_congr ((State.sintRise_trigger hl hs hp hr).trans (State.triggerEdge_begins ht))
  · exact next_settle_congr ((State.sintRise_trigger hl hs hp hr).trans (State.triggerEdge_ignored ht))
  · have taken {x : State} (hx : (s.setLine n l.raised).lineEvent n = x) : exec (.sintRise n) s = .next x.settle :=
      next_settle_congr ((State.sintRise_interrupt hl hs hp hr).trans hx)
    refine ⟨fun hi ha => ?_, fun hi ha => ?_, fun hb => ?_⟩
    · exact taken ((State.lineEvent_setLine_idle (l := l.raised) hi).trans (State.lineToPending_action ha))
    · exact taken ((State.lineEvent_setLine_idle (l := l.raised) hi).trans (State.lineToPending_notice ha))
    · exact taken (State.lineEvent_setLine_again (l := l.raised) hb)

end Sys2Proof.Machine
end

/-! ## DMA channels: the level of SREQ (R126, R136) -/
section
namespace Sys2Proof.Machine

variable {s : State} {m n : Fin 4} {c : Channel}

theorem State.setChannel_self (s : State) (n : Fin 4) : s.setChannel n (s.channel n) = s :=
  congrArg s.setChannels (Vector.set_getElem_self n.isLt)

/-- The record as the level of its SREQ leaves it. -/
def Channel.leveled (c : Channel) (inReset : Bool) : Channel :=
  if c.state = .idle ∧ c.sreq = true then
    if c.config.mode = .cascade then (if inReset = false then { c with state := .waiting } else c)
    else { c with starved := true }
  else c

theorem Channel.leveled_unmoved (h : c.state ≠ .idle ∨ c.sreq = false) (r : Bool) : c.leveled r = c :=
  if_neg fun ⟨idle, asserted⟩ => h.elim (· idle) fun low => Bool.false_ne_true (low.symm.trans asserted)

section
variable (hs : c.state = .idle) (hq : c.sreq = true)
include hs hq

theorem Channel.leveled_starves (hm : c.config.mode ≠ .cascade) (r : Bool) :
    c.leveled r = { c with starved := true } := (if_pos ⟨hs, hq⟩).trans (if_neg hm)

theorem Channel.leveled_claims (hm : c.config.mode = .cascade) : c.leveled false = { c with state := .waiting } :=
  (if_pos ⟨hs, hq⟩).trans (if_pos hm)

theorem Channel.leveled_held (hm : c.config.mode = .cascade) : c.leveled true = c :=
  (if_pos ⟨hs, hq⟩).trans (if_pos hm)
end

/-- The level of SREQ reaches the record of its channel and no other part. -/
theorem State.channelLevel_eq (s : State) (n : Fin 4) :
    s.channelLevel n = s.setChannel n ((s.channel n).leveled s.inSlotReset) := by
  simp only [State.channelLevel, Channel.leveled, apply_ite (s.setChannel n), State.setChannel_self]

theorem State.channelLevel_setChannel (s : State) (n : Fin 4) (c : Channel) :
    (s.setChannel n c).channelLevel n = s.setChannel n (c.leveled s.inSlotReset) := by
  rw [State.channelLevel_eq, State.channel_setChannel_same, State.setChannel_setChannel]
  rfl

theorem State.channel_channelLevel_same (s : State) (n : Fin 4) :
    (s.channelLevel n).channel n = (s.channel n).leveled s.inSlotReset := by
  rw [State.channelLevel_eq, State.channel_setChannel_same]

theorem State.channel_channelLevel_other (s : State) (h : n ≠ m) : (s.channelLevel m).channel n = s.channel n := by
  rw [State.channelLevel_eq, State.channel_setChannel_other _ _ _ _ h]

theorem State.inSlotReset_channelLevel (s : State) (n : Fin 4) : (s.channelLevel n).inSlotReset = s.inSlotReset := by
  rw [State.channelLevel_eq]
  rfl

theorem State.channelLevels_eq (s : State) :
    s.channelLevels = (((s.channelLevel 0).channelLevel 1).channelLevel 2).channelLevel 3 := by
  have order : List.finRange 4 = [0, 1, 2, 3] := by decide
  simp only [State.channelLevels, order, List.foldl_cons, List.foldl_nil]

/-- Each channel of a list is reached once: the levels of the others leave its record and SRESET alone. -/
theorem State.channel_foldl_channelLevel {l : List (Fin 4)} (hd : l.Nodup) :
    (l.foldl State.channelLevel s).channel n =
      if n ∈ l then (s.channel n).leveled s.inSlotReset else s.channel n := by
  induction l generalizing s with
  | nil => rfl
  | cons m l ih =>
    obtain ⟨hm, hd⟩ := List.nodup_cons.mp hd
    rw [List.foldl_cons, ih hd, State.inSlotReset_channelLevel]
    by_cases h : n = m
    · subst h
      rw [if_neg hm, if_pos (by simp), State.channel_channelLevel_same]
    · simp only [State.channel_channelLevel_other s h, List.mem_cons, h, false_or]

theorem State.channel_channelLevels (s : State) (n : Fin 4) :
    s.channelLevels.channel n = (s.channelLevel n).channel n :=
  (State.channel_foldl_channelLevel (List.nodup_finRange 4)).trans
    ((if_pos (List.mem_finRange n)).trans (s.channel_channelLevel_same n).symm)

end Sys2Proof.Machine
end

/-! ## DMA channels: the grant of a cascade tenure withdrawn (R30) -/
section
namespace Sys2Proof.Machine

variable {s : State}

theorem State.grantGone_free (h : s.bus.master = none) (n : Fin 4) : s.grantGone n = s.setArbiter .idle := by
  simp only [State.grantGone, h]

theorem State.grantGone_cycle {m : MasterCycle} (h : s.bus.master = some m) (n : Fin 4) :
    s.grantGone n = if m.strobe then s.setArbiter (.handback n) else s.dropMaster.setArbiter .idle := by
  simp only [State.grantGone, h]

theorem State.grantGone_strobed {m : MasterCycle} (h : s.bus.master = some m) (hs : m.strobe = true) (n : Fin 4) :
    s.grantGone n = s.setArbiter (.handback n) := (State.grantGone_cycle h n).trans (if_pos hs)

theorem State.grantGone_over {m : MasterCycle} (h : s.bus.master = some m) (hs : m.strobe = false) (n : Fin 4) :
    s.grantGone n = s.dropMaster.setArbiter .idle := (State.grantGone_cycle h n).trans (if_neg (by simp [hs]))

/-- The withdrawal commutes with an update of what it does not read or write. -/
theorem State.grantGone_comm {f : State → State} (hb : (f s).bus.master = s.bus.master)
    (ha : ∀ a, (f s).setArbiter a = f (s.setArbiter a))
    (hd : (f s).dropMaster.setArbiter .idle = f (s.dropMaster.setArbiter .idle)) (n : Fin 4) :
    (f s).grantGone n = f (s.grantGone n) := by
  unfold State.grantGone
  rw [hb]
  split
  · split
    · exact ha _
    · exact hd
  · exact ha _

theorem State.grantGone_setChannel (s : State) (n m : Fin 4) (c : Channel) :
    (s.setChannel m c).grantGone n = (s.grantGone n).setChannel m c :=
  State.grantGone_comm (f := (·.setChannel m c)) rfl (fun _ => rfl) rfl n

theorem State.grantGone_setSlot (s : State) (n : Fin 4) (x : Slot) :
    (s.setSlot x).grantGone n = (s.grantGone n).setSlot x :=
  State.grantGone_comm (f := (·.setSlot x)) rfl (fun _ => rfl) rfl n

theorem State.link_grantGone (s : State) (n : Fin 4) : (s.grantGone n).link = s.link := by
  unfold State.grantGone
  split
  · split <;> rfl
  · rfl

theorem State.notices_grantGone (s : State) (n : Fin 4) : (s.grantGone n).notices = s.notices := by
  unfold State.grantGone
  split
  · split <;> rfl
  · rfl

end Sys2Proof.Machine
end

/-! ## DMA channels: CHANNEL_SET, CHANNEL_STAGE, CHANNEL_QUIESCE (R123, R124, R138) -/
section
namespace Sys2Proof.Machine

variable {s : State} {n : Fin 4}

/-! ### CHANNEL_SET (R123, R126, R136) -/

section
variable (tag : Word) {f : ChannelFields} {cfg : ChannelConfig}

theorem State.takeChannelSet_badField (hn : ∀ n c, ¬ f.Asks n c) :
    s.takeChannelSet tag f [] = s.refuse 0x28 tag .badField := by
  simp only [State.takeChannelSet, State.noData, if_true, none_of_asks (fun _ _ => checkChannel_some) hn]

variable (hc : f.Asks n cfg)
include hc

theorem State.takeChannelSet_busy (hs : (s.channel n).state = .moving ∨ (s.channel n).state = .master) :
    s.takeChannelSet tag f [] = s.refuse 0x28 tag .busy := by
  simp only [State.takeChannelSet, State.noData, if_true, checkChannel_some.mpr hc, hs]

/-- The record is replaced, then the level of SREQ looks at the new one; the reply carries the state it then has. -/
theorem State.takeChannelSet_replaces (hm : (s.channel n).state ≠ .moving) (ha : (s.channel n).state ≠ .master) :
    let c := ((s.channel n).reconfigured cfg).leveled s.inSlotReset
    s.takeChannelSet tag f [] = ((s.setChannel n c).readied 0xA8 tag (.channelState c.state)).settleBlocks := by
  simp only [State.takeChannelSet, State.noData, if_true, checkChannel_some.mpr hc, hm, ha, or_self, if_false,
    State.channelLevel_setChannel, State.channel_setChannel_same]
  rfl
end

/-- A new record as the level of its SREQ leaves it: WAITING, starved, or neither. -/
theorem Channel.leveled_reconfigured (c : Channel) (cfg : ChannelConfig) (s : State) :
    (c.reconfigured cfg).leveled s.inSlotReset =
      ⟨cfg, none, none,
        if cfg.enable = false then .off
        else if cfg.mode = .cascade ∧ c.sreq = true ∧ s.sreset = .released then .waiting else .idle,
        0, false, cfg.enable && c.sreq && decide (cfg.mode ≠ .cascade), false, none, none, c.sreq, false, false⟩ := by
  cases he : cfg.enable with
  | false =>
    have off : (c.reconfigured cfg).state ≠ .idle := by simp [Channel.reconfigured, he]
    rw [Channel.leveled_unmoved (.inl off)]
    simp [Channel.reconfigured, Channel.cleared, he]
  | true =>
    have idle : (c.reconfigured cfg).state = .idle := if_pos he
    cases hq : c.sreq with
    | false =>
      rw [Channel.leveled_unmoved (c := c.reconfigured cfg) (.inr hq)]
      simp [Channel.reconfigured, Channel.cleared, he, hq]
    | true =>
      by_cases hm : cfg.mode = .cascade
      · cases hr : s.inSlotReset with
        | false =>
          rw [Channel.leveled_claims idle hq hm]
          simp [Channel.reconfigured, Channel.cleared, he, hq, hm, s.inSlotReset_false.mp hr]
        | true =>
          have asserted : s.sreset ≠ .released := by simpa [State.inSlotReset] using hr
          rw [Channel.leveled_held idle hq hm]
          simp [Channel.reconfigured, Channel.cleared, he, hq, hm, asserted]
      · rw [Channel.leveled_starves idle hq hm]
        simp [Channel.reconfigured, Channel.cleared, he, hq, hm]

/-- Settles O27: the checks, then the new record with the level of SREQ (`Channel.leveled_reconfigured`). -/
theorem channelSetReplacesTheRecord : Obligations.ChannelSetReplacesTheRecord := by
  intro tag f s h
  have fits : RequestBody.size (.channelSet f) + ([] : List Byte).length ≤ 1094 := by simp [RequestBody.size]
  have refused {st : Status} (hs : s.takeChannelSet tag f [] = s.refuse 0x28 tag st) :
      exec (.channelSet tag f []) s = .next (s.replied ⟨0xA8, st, tag, .none⟩) :=
    exec_answered h _ rfl fits rfl hs
  refine ⟨fun hn => refused (State.takeChannelSet_badField tag hn), fun n cfg hc =>
    ⟨fun hs => refused (State.takeChannelSet_busy tag hc hs), fun hm ha => ?_⟩⟩
  have taken := State.takeChannelSet_replaces tag hc hm ha
  rw [Channel.leveled_reconfigured] at taken
  exact exec_readied h _ rfl fits (s.link_setChannel n _) taken

/-! ### CHANNEL_STAGE (R124) -/

section
variable (tag : Word) {f : StageFields} {b : Block}

theorem State.takeChannelStage_badField (hn : ∀ n b, ¬ f.Asks n b) :
    s.takeChannelStage tag f [] = s.refuse 0x29 tag .badField := by
  simp only [State.takeChannelStage, State.noData, if_true, none_of_asks (fun _ _ => checkStage_some) hn]

variable (hb : f.Asks n b)
include hb

theorem State.takeChannelStage_state
    (hs : (s.channel n).state = .off ∨ (s.channel n).state = .faulted ∨ (s.channel n).config.mode = .cascade) :
    s.takeChannelStage tag f [] = s.refuse 0x29 tag .state := by
  simp only [State.takeChannelStage, State.noData, if_true, checkStage_some.mpr hb, hs]

variable (hs : ¬ ((s.channel n).state = .off ∨ (s.channel n).state = .faulted ∨ (s.channel n).config.mode = .cascade))
include hs

theorem State.takeChannelStage_current (hc : (s.channel n).current = none) :
    let c := s.channel n
    s.takeChannelStage tag f [] = ((s.setChannel n { c with
      current := some b, starved := false, state := if c.state = .idle then .ready else c.state }).readied
        0xA9 tag (.placed false)).settleBlocks := by
  simp only [State.takeChannelStage, State.noData, if_true, checkStage_some.mpr hb, hs, if_false, hc]
  rfl

theorem State.takeChannelStage_staged (hc : (s.channel n).current ≠ none) (hg : (s.channel n).staged = none) :
    s.takeChannelStage tag f [] =
      (s.setChannel n { s.channel n with staged := some b }).answer 0x29 tag .ok (.placed true) := by
  obtain ⟨k, hk⟩ := Option.ne_none_iff_exists'.mp hc
  simp only [State.takeChannelStage, State.noData, if_true, checkStage_some.mpr hb, hs, if_false, hk, hg]

theorem State.takeChannelStage_busy (hc : (s.channel n).current ≠ none) (hg : (s.channel n).staged ≠ none) :
    s.takeChannelStage tag f [] = s.refuse 0x29 tag .busy := by
  obtain ⟨k, hk⟩ := Option.ne_none_iff_exists'.mp hc
  obtain ⟨g, hg⟩ := Option.ne_none_iff_exists'.mp hg
  simp only [State.takeChannelStage, State.noData, if_true, checkStage_some.mpr hb, hs, if_false, hk, hg]
end

/-- Settles O28: the checks, then the placement by the two slots. -/
theorem channelStagePlacesTheBlock : Obligations.ChannelStagePlacesTheBlock := by
  intro tag f s h
  have fits : RequestBody.size (.channelStage f) + ([] : List Byte).length ≤ 1094 := by simp [RequestBody.size]
  have refused {st : Status} (hs : s.takeChannelStage tag f [] = s.refuse 0x29 tag st) :
      exec (.channelStage tag f []) s = .next (s.replied ⟨0xA9, st, tag, .none⟩) :=
    exec_answered h _ rfl fits rfl hs
  refine ⟨fun hn => refused (State.takeChannelStage_badField tag hn), fun n b hb =>
    ⟨fun hs => refused (State.takeChannelStage_state tag hb hs), fun ho hf hm => ?_⟩⟩
  have takes :
      let c := s.channel n
      ¬ (c.state = .off ∨ c.state = .faulted ∨ c.config.mode = .cascade) :=
    not_or.mpr ⟨ho, not_or.mpr ⟨hf, hm⟩⟩
  refine ⟨fun hc => ?_, fun hc hg => ?_, fun hc hg => refused (State.takeChannelStage_busy tag hb takes hc hg)⟩
  · exact exec_readied h _ rfl fits (s.link_setChannel n _) (State.takeChannelStage_current tag hb takes hc)
  · exact exec_answered h _ rfl fits (s.link_setChannel n _) (State.takeChannelStage_staged tag hb takes hc hg)

/-! ### CHANNEL_QUIESCE (R138) -/

theorem State.channel_setSlot (s : State) (x : Slot) (n : Fin 4) : (s.setSlot x).channel n = s.channel n := rfl

/-- The stop of a channel whose ChannelQuiesce waits for it answers that request. -/
theorem State.channelStop_answers {tag : Word} (h : s.link.slot = .working (.quiesce n) 0x2A tag) :
    let c := s.channel n
    s.channelStop n =
      (s.setChannel n { c.cleared with state := c.quiesced }).readied 0xAA tag (.channelState c.quiesced) :=
  State.finishWork_working (s := s.setChannel n _) h _

section
variable (tag : Word) {b : Byte}

theorem State.takeChannelQuiesce_badField (hb : 4 ≤ b.toNat) :
    s.takeChannelQuiesce tag b [] = s.refuse 0x2A tag .badField := by
  simp only [State.takeChannelQuiesce, State.noData, if_true, finOf_none.mpr hb]

variable (hb : b.toNat = n)
include hb

theorem State.takeChannelQuiesce_works :
    s.takeChannelQuiesce tag b [] = ((s.setSlot (.working (.quiesce n) 0x2A tag)).quiesceChannel n).settleBlocks := by
  simp only [State.takeChannelQuiesce, State.noData, if_true, finOf_some.mpr hb]

theorem State.takeChannelQuiesce_atOnce (hm : (s.channel n).state ≠ .moving) (ha : (s.channel n).state ≠ .master) :
    let c := s.channel n
    s.takeChannelQuiesce tag b [] =
      ((s.setChannel n { c.cleared with state := c.quiesced }).readied 0xAA tag
        (.channelState c.quiesced)).settleBlocks := by
  have stops : (s.setSlot (.working (.quiesce n) 0x2A tag)).quiesceChannel n =
      (s.setSlot (.working (.quiesce n) 0x2A tag)).channelStop n := by
    rw [State.quiesceChannel, State.channel_setSlot]
    cases hs : (s.channel n).state with
    | moving => exact absurd hs hm
    | master => exact absurd hs ha
    | _ => rfl
  rw [State.takeChannelQuiesce_works tag hb, stops, State.channelStop_answers rfl]
  rfl

theorem State.takeChannelQuiesce_moving (hs : (s.channel n).state = .moving) :
    s.takeChannelQuiesce tag b [] =
      ((s.setChannel n { s.channel n with quiescing := true }).setSlot
        (.working (.quiesce n) 0x2A tag)).settleBlocks := by
  rw [State.takeChannelQuiesce_works tag hb, State.quiesceChannel, State.channel_setSlot, hs]
  rfl

/-- A cascade tenure ends with its grant withdrawn, the channel HELD_OFF and the request answered. -/
theorem State.takeChannelQuiesce_master (hs : (s.channel n).state = .master) :
    s.takeChannelQuiesce tag b [] =
      (((s.grantGone n).setChannel n { (s.channel n).cleared with state := .heldOff, tenureTimer := none }).readied
        0xAA tag (.channelState .heldOff)).settleBlocks := by
  have held : ({ s.channel n with tenureTimer := none } : Channel).quiesced = .heldOff := by
    simp only [Channel.quiesced, hs]
  rw [State.takeChannelQuiesce_works tag hb, State.quiesceChannel, State.channel_setSlot, hs,
    State.withdrawGrant_eq, State.grantGone_setSlot, State.channelStop_answers rfl]
  simp only [State.channel_setChannel_same, State.setChannel_setChannel, State.channel_setSlot, held]
  rfl
end

/-- Settles O29: the check, a channel stopped at once by the state that it reaches, one that moves, a cascade tenure by
what its master's cycle is (`State.grantGone`). -/
theorem channelQuiesceStops : Obligations.ChannelQuiesceStops := by
  intro tag b s h
  have fits : RequestBody.size (.channelQuiesce b) + ([] : List Byte).length ≤ 1094 := by simp [RequestBody.size]
  refine ⟨fun hb => exec_answered h _ rfl fits rfl (State.takeChannelQuiesce_badField tag hb), fun n hb => ?_⟩
  intro c stopped
  have withdrawn {x : State} (hs : c.state = .master) (hx : s.grantGone n = x) :
      exec (.channelQuiesce tag b []) s = .next (State.settle
        ((x.setChannel n (stopped .heldOff none)).readied 0xAA tag (.channelState .heldOff))) :=
    exec_readied h _ rfl fits (hx ▸ s.link_grantGone n) (hx ▸ State.takeChannelQuiesce_master tag hb hs)
  refine ⟨fun st hs => ?_, fun hs => ?_, fun hs hm => withdrawn hs (State.grantGone_free hm n),
    fun m hs hm hp => withdrawn hs (State.grantGone_strobed hm hp n),
    fun m hs hm hp => withdrawn hs (State.grantGone_over hm hp n)⟩
  · have reached : c.state ≠ .moving ∧ c.state ≠ .master ∧ c.quiesced = st := by
      rcases hs with ⟨hs, rfl⟩ | ⟨hs | hs | hs, rfl⟩ | ⟨hs, rfl⟩ | ⟨hs, rfl⟩ <;> simp [Channel.quiesced, hs]
    obtain ⟨hm, ha, rfl⟩ := reached
    exact exec_readied h _ rfl fits (s.link_setChannel n _) (State.takeChannelQuiesce_atOnce tag hb hm ha)
  · refine (exec_request rfl s).trans (congrArg _ (h.settled _ (HostRequest.length_small fits)
      ((s.setChannel n { c with quiescing := true }).setSlot (.working (.quiesce n) 0x2A tag)) rfl rfl ?_))
    exact State.takeChannelQuiesce_moving tag hb hs

end Sys2Proof.Machine
end

/-! ## DMA channels: terminal count (R131, R133, R134, R64) -/
section
namespace Sys2Proof.Machine

variable {s : State} {n : Fin 4} {c : Channel}

/-- The overrun of channel n once a further BLOCK_DONE is posted: set when a notice of it waits (R134). -/
def State.lost (s : State) (n : Fin 4) : Bool :=
  (s.channel n).overrun || s.notices.any fun k => k.source == .channel n

/-- A block is over: the record of the channel replaced, BLOCK_DONE posted with it, an Await of the channel ended. -/
def State.blockOver (s : State) (n : Fin 4) (c : Channel) : State :=
  ((s.setChannel n c).setNotices (postTo s.notices (.channel n) (.channel
    ⟨n, .blockDone, c.blocksDone, c.state, c.overrun, c.starved, c.protectHit, none, c.remaining⟩))).deliver
      (.channel n)

theorem State.channel_blockOver_same (s : State) (n : Fin 4) (c : Channel) : (s.blockOver n c).channel n = c :=
  (State.channel_deliver _ _ _).trans (s.channel_setChannel_same n c)

theorem State.channel_blockOver_other (s : State) (c : Channel) {m : Fin 4} (h : m ≠ n) :
    (s.blockOver n c).channel m = s.channel m :=
  (State.channel_deliver _ _ _).trans (s.channel_setChannel_other n m c h)

theorem State.mem_blockOver (s : State) (n : Fin 4) (c : Channel) : (s.blockOver n c).mem = s.mem :=
  State.mem_deliver _ _

/-- BLOCK_DONE of a record, its overrun brought up to date first (R134). -/
theorem State.postChannel_blockDone (hc : c.overrun = (s.channel n).overrun) :
    ((s.setChannel n c).postChannel n .blockDone).deliver (.channel n) =
      s.blockOver n { c with overrun := s.lost n } := by
  have record : (if (s.setChannel n c).waitingNotice (.channel n) = true then { c with overrun := true } else c) =
      { c with overrun := s.lost n } := by
    have waits : (s.setChannel n c).waitingNotice (.channel n) = s.notices.any fun k => k.source == .channel n := rfl
    rw [waits, State.lost, ← hc]
    cases s.notices.any fun k => k.source == .channel n <;> simp
  simp only [State.postChannel, State.channel_setChannel_same, true_and, record, State.setChannel_setChannel,
    reduceCtorEq, if_false]
  rfl

/-! ### The slots of the block -/

/-- The tenure goes on past the handover (R131, R28). -/
theorem Channel.continues_eq (c : Channel) : c.continues =
    (!c.quiescing && !c.stopped && (c.config.mode == .block || (c.config.mode == .demand && c.sreq))) := by
  unfold Channel.continues
  cases c.config.mode <;> rfl

/-- The record as a block that is over leaves its slots and its state (R131). -/
def Channel.blockSettled (c : Channel) (b : Block) : Channel :=
  match c.staged with
  | some k => { c with current := some k, staged := none, state := if c.continues then .moving else .ready }
  | none =>
    match c.config.endMode with
    | .reload => { c with current := some b.reload, state := .ready }
    | .once => { c with current := none, state := .idle }

theorem Channel.blockSettled_handover (b : Block) {k : Block} (hk : c.staged = some k) :
    c.blockSettled b =
      { c with current := some k, staged := none, state := if c.continues then .moving else .ready } := by
  simp only [Channel.blockSettled, hk]

theorem Channel.blockSettled_reload (b : Block) (hk : c.staged = none) (he : c.config.endMode = .reload) :
    c.blockSettled b = { c with current := some b.reload, state := .ready } := by
  simp only [Channel.blockSettled, hk, he]

theorem Channel.blockSettled_once (b : Block) (hk : c.staged = none) (he : c.config.endMode = .once) :
    c.blockSettled b = { c with current := none, state := .idle } := by
  simp only [Channel.blockSettled, hk, he]

/-- The settling of the slots writes them and the state alone. -/
theorem Channel.blockSettled_frame (c : Channel) (b : Block) :
    c.blockSettled b = { c with
      current := (c.blockSettled b).current
      staged := (c.blockSettled b).staged
      state := (c.blockSettled b).state } := by
  unfold Channel.blockSettled
  split
  · rfl
  · split <;> rfl

/-! ### Terminal count -/

/-- The record with its block counted. -/
def Channel.counted (c : Channel) : Channel := { c with blocksDone := min (c.blocksDone + 1) 65535 }

/-- Terminal count: the block is counted, the slots are settled, then the block is over. -/
theorem State.terminalCount_eq (s : State) (n : Fin 4) (b : Block) :
    s.terminalCount n b = s.blockOver n { (s.channel n).counted.blockSettled b with overrun := s.lost n } := by
  have parts : s.terminalCount n b =
      ((s.setChannel n ((s.channel n).counted.blockSettled b)).postChannel n .blockDone).deliver (.channel n) := rfl
  rw [parts]
  exact State.postChannel_blockDone (by rw [Channel.blockSettled_frame]; rfl)

/-- Settles O30: terminal count in one equation (`State.terminalCount_eq`), what it leaves alone
(`Channel.blockSettled_frame`), then the slots by the staged block and the end mode. -/
theorem terminalCountSettlesTheSlots : Obligations.TerminalCountSettlesTheSlots := by
  refine ⟨fun s n b => ?_, fun s n b => ?_⟩
  · intro c t
    have frame := c.counted.blockSettled_frame b
    have record : t.channel n = { c.counted.blockSettled b with overrun := s.lost n } := by
      simp only [t, State.terminalCount_eq, State.channel_blockOver_same, c]
    refine ⟨by rw [record, frame]; rfl, by rw [record]; rfl, fun k hk => ?_, fun hk he => ?_, fun hk he => ?_,
      by rw [record, frame]; rfl, fun m hm => ?_, ?_⟩
    · rw [record, Channel.blockSettled_handover (c := c.counted) b hk]
      exact ⟨rfl, rfl, by dsimp only; split <;> simp⟩
    · rw [record, Channel.blockSettled_reload (c := c.counted) b hk he]
      exact ⟨rfl, rfl⟩
    · rw [record, Channel.blockSettled_once (c := c.counted) b hk he]
      exact ⟨rfl, rfl⟩
    · exact (congrArg (·.channel m) (s.terminalCount_eq n b)).trans (s.channel_blockOver_other _ hm)
    · exact (congrArg State.mem (s.terminalCount_eq n b)).trans (s.mem_blockOver n _)
  · intro c lost goesOn counted posted
    have settled {x : Channel} (hx : c.counted.blockSettled b = x) :
        s.terminalCount n b = s.blockOver n { x with overrun := lost } := hx ▸ s.terminalCount_eq n b
    refine ⟨fun k hk => ?_, fun hk he => settled (Channel.blockSettled_reload b hk he),
      fun hk he => settled (Channel.blockSettled_once b hk he)⟩
    have goes : c.counted.continues = goesOn := c.counted.continues_eq
    exact goes ▸ settled (Channel.blockSettled_handover b hk)

end Sys2Proof.Machine
end

/-! ## DMA channels: SREQ and the tenure limit (R125, R126, R136, R30, R31) -/
section
namespace Sys2Proof.Machine

variable {s : State} {n : Fin 4}

theorem State.sreqDeassert_claimant (h : (s.channel n).state = .waiting ∨ (s.channel n).state = .heldOff) :
    s.sreqDeassert n = s.setChannel n { s.channel n with sreq := false, state := .idle } := by
  rcases h with hs | hs <;>
    simp only [State.sreqDeassert, State.channel_setChannel_same, State.setChannel_setChannel, hs]

theorem State.sreqDeassert_other
    (hw : (s.channel n).state ≠ .waiting) (hh : (s.channel n).state ≠ .heldOff) (hm : (s.channel n).state ≠ .master) :
    s.sreqDeassert n = s.setChannel n { s.channel n with sreq := false } := by
  simp only [State.sreqDeassert, State.channel_setChannel_same]
  cases hs : (s.channel n).state with
  | waiting => exact absurd hs hw
  | heldOff => exact absurd hs hh
  | master => exact absurd hs hm
  | _ => rfl

/-- A cascade tenure ends with SREQ, its grant withdrawn (R30). -/
theorem State.sreqDeassert_master (hs : (s.channel n).state = .master) :
    s.sreqDeassert n =
      (s.grantGone n).setChannel n { s.channel n with sreq := false, tenureTimer := none, state := .idle } := by
  simp only [State.sreqDeassert, State.channel_setChannel_same, hs, State.withdrawGrant_eq,
    State.grantGone_setChannel, State.setChannel_setChannel]

theorem State.tenureExpiry_other (h : (s.channel n).state ≠ .master ∨ (s.channel n).tenureTimer = none) :
    s.tenureExpiry n = s := if_neg fun ⟨hm, ht⟩ => h.elim (· hm) ht

/-- An OVERSTAY posting carries the record as it stands. -/
theorem State.postChannel_overstay (s : State) (n : Fin 4) (c : Channel) :
    (s.setChannel n c).postChannel n .overstay =
      (s.setChannel n c).setNotices (postTo s.notices (.channel n) (.channel
        ⟨n, .overstay, c.blocksDone, c.state, c.overrun, c.starved, c.protectHit, none, c.remaining⟩)) := by
  simp only [State.postChannel, State.channel_setChannel_same, State.setChannel_setChannel, reduceCtorEq, false_and,
    if_false]
  rfl

/-- The tenure limit of a cascade tenure: its grant withdrawn, HELD_OFF, OVERSTAY with that state (log 10). -/
theorem State.tenureExpiry_master (hm : (s.channel n).state = .master) (ht : (s.channel n).tenureTimer ≠ none) :
    let c := s.channel n
    s.tenureExpiry n =
      ((s.grantGone n).setChannel n { c with state := .heldOff, tenureTimer := none }).setNotices
        (postTo s.notices (.channel n) (.channel
          ⟨n, .overstay, c.blocksDone, .heldOff, c.overrun, c.starved, c.protectHit, none, c.remaining⟩)) := by
  refine (if_pos ⟨hm, ht⟩).trans ?_
  rw [State.withdrawGrant_eq, State.channel_setChannel_same, State.setChannel_setChannel, State.postChannel_overstay,
    State.notices_grantGone]
  rfl

/-- Settles O31: the edges of SREQ by the state of the channel, the tenure limit, the level of SREQ on one channel
(`State.channelLevel_eq`) and on all four (`State.channel_channelLevels`). -/
theorem sreqAndTenureReachTheChannel : Obligations.SreqAndTenureReachTheChannel := by
  refine ⟨fun n s => ?_, fun n s => ?_, fun s n => ?_, fun s => ⟨s.channelLevels_eq, s.channel_channelLevels⟩⟩
  · intro c
    have ends {x : State} (hs : c.state = .master) (hx : s.grantGone n = x) :
        exec (.sreqDeassert n) s = .next (State.settle
          (x.setChannel n { c with sreq := false, tenureTimer := none, state := .idle })) :=
      next_settle_congr (hx ▸ State.sreqDeassert_master hs)
    refine ⟨rfl, fun hs => next_settle_congr ?_, fun hs => next_settle_congr ?_,
      fun hs hm => ends hs (State.grantGone_free hm n), fun m hs hm => ends hs (State.grantGone_cycle hm n)⟩
    · exact State.sreqDeassert_claimant hs
    · have quiet : c.state ≠ .waiting ∧ c.state ≠ .heldOff ∧ c.state ≠ .master := by
        rcases hs with hs | hs | hs | hs | hs <;> simp [hs]
      obtain ⟨hw, hh, hm⟩ := quiet
      exact State.sreqDeassert_other hw hh hm
  · intro c
    refine ⟨fun h => next_settle_congr (State.tenureExpiry_other h), fun hm ht => ?_⟩
    intro x
    have gone : x = s.grantGone n := by
      simp only [State.grantGone, x]
      cases s.bus.master <;> rfl
    rw [gone]
    exact next_settle_congr (State.tenureExpiry_master hm ht)
  · intro c
    have leaves {x : Channel} (hx : c.leveled s.inSlotReset = x) : s.channelLevel n = s.setChannel n x :=
      hx ▸ s.channelLevel_eq n
    refine ⟨fun h => ?_, fun hs hq => ⟨fun hm => leaves (Channel.leveled_starves hs hq hm _), fun hm hr => ?_,
      fun hm hr => ?_⟩⟩
    · exact (leaves (Channel.leveled_unmoved h _)).trans (s.setChannel_self n)
    · rw [← s.inSlotReset_false] at hr
      exact leaves (hr ▸ Channel.leveled_claims hs hq hm)
    · have asserted : s.inSlotReset = true := by
        rwa [← Bool.not_eq_false, s.inSlotReset_false]
      exact (leaves (asserted ▸ Channel.leveled_held hs hq hm)).trans (s.setChannel_self n)

end Sys2Proof.Machine
end

/-! ## The watch unit: settings, snapshot, changed entries, completed passes (R143, R147-R149, R151) -/
section
namespace Sys2Proof.Machine

variable {s : State}

/-! ### WATCH_READ (R151) -/

/-- Settles O38: the reply is formed as the request is taken. -/
theorem watchReadReportsTheSnapshot : Obligations.WatchReadReportsTheSnapshot := fun tag s h =>
  exec_answered h (.watchRead tag []) rfl (by simp [RequestBody.size]) (x := s) rfl rfl

/-! ### WATCH_SET (R143) -/

section
variable (tag : Word) {f : WatchFields} {c : WatchConfig}

theorem State.takeWatchSet_badField (hn : ∀ c, ¬ f.Asks c) :
    s.takeWatchSet tag f [] = s.refuse 0x38 tag .badField := by
  have nothing : checkWatch f = none :=
    Option.eq_none_iff_forall_ne_some.mpr fun c hc => hn c (checkWatch_some.mp hc)
  simp only [State.takeWatchSet, State.noData, if_true, nothing]

variable (hc : f.Asks c)
include hc

theorem State.takeWatchSet_busy (hs : s.watch.state ≠ .stopped) :
    s.takeWatchSet tag f [] = s.refuse 0x38 tag .busy := by
  simp only [State.takeWatchSet, State.noData, if_true, checkWatch_some.mpr hc, if_pos hs]

variable (hs : s.watch.state = .stopped)
include hs

theorem State.takeWatchSet_state (ht : s.triggerMissing c.trigger = true) :
    s.takeWatchSet tag f [] = s.refuse 0x38 tag .state := by
  simp only [State.takeWatchSet, State.noData, if_true, checkWatch_some.mpr hc, hs, ne_eq, not_true_eq_false,
    if_false, ht]

theorem State.takeWatchSet_replaces (ht : s.triggerMissing c.trigger = false) :
    s.takeWatchSet tag f [] = (s.setWatch (s.watch.reconfigured c)).answer 0x38 tag .ok
      (.watchState (s.watch.reconfigured c).state) := by
  simp only [State.takeWatchSet, State.noData, if_true, checkWatch_some.mpr hc, hs, ne_eq, not_true_eq_false,
    if_false, ht, Bool.false_eq_true, State.watch_setWatch]
end

theorem State.triggerMissing_iff (s : State) (t : Option (Fin 8)) :
    s.triggerMissing t = true ↔ ∃ n, t = some n ∧ (s.line n).role ≠ .trigger := by
  cases t <;> simp [State.triggerMissing]

theorem Watch.anyValid_iff (w : Watch) : w.anyValid = true ↔ ∃ i : Fin 8, w.slots[i.val] ≠ none := by
  simp [Watch.anyValid, Option.isSome_iff_ne_none]

/-- The record after a WatchSet, by the state that it reaches (R143). -/
theorem Watch.reconfigured_eq (w : Watch) (c : WatchConfig) {st : WatchState}
    (armed : (c.mode = .single ∧ c.trigger ≠ none ∧ ∃ i : Fin 8, c.slots[i.val] ≠ none) → st = .armed)
    (stopped : (c.mode = .cyclic ∨ c.trigger = none ∨ ∀ i : Fin 8, c.slots[i.val] = none) → st = .stopped) :
    w.reconfigured c = { w with
      slots := c.slots, mode := c.mode, interval := c.interval, trigger := c.trigger, snapshot := none
      passCount := 0, state := st } := by
  simp only [Watch.reconfigured, Watch.anyValid_iff]
  split
  · next h => rw [armed h]
  · next h =>
    rw [stopped]
    by_contra hn
    obtain ⟨hm, ht, hv⟩ : c.mode ≠ .cyclic ∧ c.trigger ≠ none ∧ ¬ ∀ i : Fin 8, c.slots[i.val] = none := by
      simpa only [not_or] using hn
    have single : c.mode = .single := by
      cases hc : c.mode with
      | single => rfl
      | cyclic => exact absurd hc hm
    exact h ⟨single, ht, not_forall.mp hv⟩

/-- Settles O35: the checks in their order, then the new record (`Watch.reconfigured_eq`). -/
theorem watchSetReplacesTheSettings : Obligations.WatchSetReplacesTheSettings := by
  intro tag f s h
  have fits : RequestBody.size (.watchSet f) + ([] : List Byte).length ≤ 1094 := by simp [RequestBody.size]
  have answered {x : State} {st : Status} {b : ReplyBody} (hx : x.link = s.link)
      (hs : s.takeWatchSet tag f [] = x.answer 0x38 tag st b) :
      exec (.watchSet tag f []) s = .next (x.replied ⟨0xB8, st, tag, b⟩) :=
    exec_answered h _ rfl fits hx hs
  refine ⟨fun hn => answered rfl (State.takeWatchSet_badField tag hn), fun c hc =>
    ⟨fun hs => answered rfl (State.takeWatchSet_busy tag hc hs), fun hs ht => ?_, fun hs ht st armed stopped => ?_⟩⟩
  · exact answered rfl (State.takeWatchSet_state tag hc hs ((s.triggerMissing_iff _).mpr ht))
  · have named : s.triggerMissing c.trigger = false := Bool.eq_false_iff.mpr fun hm => by
      obtain ⟨n, hn, hr⟩ := (s.triggerMissing_iff _).mp hm
      exact hr (ht n hn)
    have taken := State.takeWatchSet_replaces tag hc hs named
    rw [Watch.reconfigured_eq _ c armed stopped] at taken
    exact answered rfl taken

/-! ### Changed entries (R148) -/

/-- Two values under a mask differ when they differ in a bit of it. -/
theorem readingChanged_values (mask a b : Word) :
    readingChanged mask (some (.value a)) (some (.value b)) = true ↔
      ∃ i, mask.getLsbD i = true ∧ a.getLsbD i ≠ b.getLsbD i := by
  have same : a &&& mask = b &&& mask ↔ ∀ i, mask.getLsbD i = true → a.getLsbD i = b.getLsbD i := by
    refine ⟨fun h i hi => ?_, fun h => BitVec.eq_of_getLsbD_eq fun i _ => ?_⟩
    · simpa [hi] using congrArg (·.getLsbD i) h
    · cases hi : mask.getLsbD i with
      | true => simp [hi, h i hi]
      | false => simp [hi]
  simp [readingChanged, same]

/-- Settles O40: the two readings by what they are, then the entry by the snapshot. -/
theorem watchEntryChanged : Obligations.WatchEntryChanged := by
  refine ⟨fun _ _ => rfl, readingChanged_values, fun _ _ _ => ⟨rfl, rfl⟩, fun _ k k' => ?_, fun w i e he =>
    ⟨fun hn => ?_, fun sn hsn => ?_, ?_⟩⟩
  · simp [readingChanged]
  · simp only [Watch.entryChanged, he, hn]
    rfl
  · simp only [Watch.entryChanged, he, hsn]
    rfl
  · simp only [Watch.entryReported, he]

/-! ### A completed pass (R147, R149) -/

/-- The pass becomes the snapshot and is counted (R147, steps 2 and 3). -/
def Watch.passTaken (w : Watch) : Watch :=
  { w with snapshot := some w.pass, pass := readingsNone, next := 0, passCount := w.passCount + 1 }

/-- The notices after a completed pass (R147, step 4; R149). -/
def State.passReported (s : State) : List Notice :=
  if (List.finRange 8).any s.watch.entryReported then
    postTo s.notices .watch
      (.watch ⟨s.watch.passCount + 1, Vector.ofFn fun i => s.watch.entryReported i, s.watch.pass⟩)
  else s.notices

/-- The pass is taken, reported and delivered, then the mode gives the next state. -/
theorem State.watchComplete_eq (s : State) :
    s.watchComplete = (((s.setWatch s.watch.passTaken).setNotices s.passReported).deliver .watch).setWatch
      s.watch.passTaken.afterPass := by
  simp only [State.watchComplete, State.watch_deliver, State.passReported]
  split <;> rfl

theorem Watch.afterPass_snapshot (w : Watch) : w.afterPass.snapshot = w.snapshot := by
  unfold Watch.afterPass
  repeat' split
  all_goals rfl

theorem Watch.afterPass_passCount (w : Watch) : w.afterPass.passCount = w.passCount := by
  unfold Watch.afterPass
  repeat' split
  all_goals rfl

theorem Watch.afterPass_single {w : Watch} (h : w.mode = .single) :
    w.afterPass.state = if w.trigger = none then .stopped else .armed := by
  simp only [Watch.afterPass, h]
  cases w.trigger <;> rfl

theorem Watch.afterPass_again {w : Watch} (h : w.mode = .cyclic) (hi : w.interval = 0) :
    w.afterPass.state = .scanning := by
  simp only [Watch.afterPass, h, hi, if_true]

theorem Watch.afterPass_rests {w : Watch} (h : w.mode = .cyclic) (hi : w.interval ≠ 0) :
    w.afterPass.state = .resting ∧ w.afterPass.rest = some w.interval := by
  simp only [Watch.afterPass, h, hi, if_false, and_self]

/-- Settles O39: the parts of a completed pass (`State.watchComplete_eq`), the next state by the mode, the delivery by
whether the ACTIVE entry awaits the watch unit. -/
theorem watchPassCompletes : Obligations.WatchPassCompletes := by
  intro s t
  have watch : t.watch = s.watch.passTaken.afterPass := congrArg State.watch s.watchComplete_eq
  have notices : t.notices = s.passReported :=
    (congrArg State.notices s.watchComplete_eq).trans (State.notices_deliver _ _)
  have queue : t.queue = (((s.setWatch s.watch.passTaken).setNotices s.passReported).deliver .watch).queue :=
    (congrArg State.queue s.watchComplete_eq :)
  refine ⟨?_, ?_, fun hm => ?_, fun hm hi => ?_, fun hm hi => ?_, fun hn => ?_, fun hr => ?_, fun e ms ha ho => ?_,
    fun ho => ?_⟩
  · rw [watch, Watch.afterPass_snapshot]
    rfl
  · rw [watch, Watch.afterPass_passCount]
    rfl
  · rw [watch, Watch.afterPass_single (w := s.watch.passTaken) hm]
    rfl
  · rw [watch, Watch.afterPass_again (w := s.watch.passTaken) hm hi]
  · rw [watch]
    exact Watch.afterPass_rests (w := s.watch.passTaken) hm hi
  · exact notices.trans (if_neg (by simp [hn]))
  · exact notices.trans (if_pos (by simpa using hr))
  · rw [queue, State.deliver_awaited (s := (s.setWatch s.watch.passTaken).setNotices s.passReported) ha ho]
    rfl
  · rw [queue, State.deliver_other (s := (s.setWatch s.watch.passTaken).setNotices s.passReported) ho]
    rfl

end Sys2Proof.Machine
end

/-! ## The watch unit: the start, the reads and the stop of a pass (R144-R147, R150, R152) -/
section
namespace Sys2Proof.Machine

variable {s : State}

/-! ### The read in flight as a pass is abandoned (R144) -/

theorem State.abandonRead_none (hr : s.watch.read = none) : s.abandonRead = s := by
  simp only [State.abandonRead, hr]

section
variable {r : WatchRead} (hr : s.watch.read = some r)
include hr

/-- A read that waits for its grant or its turn is withdrawn. -/
theorem State.abandonRead_waiting (h : s.watchReadRunning = false) :
    s.abandonRead = (s.setWatch { s.watch with read := none }).setPort { s.port with watch := none } := by
  simp only [State.abandonRead, hr, h, Bool.false_eq_true, if_false]

/-- A read that is granted or being served goes on to its end, without effect. -/
theorem State.abandonRead_running (h : s.watchReadRunning = true) :
    s.abandonRead = s.setWatch { s.watch with read := some { r with discard := true } } := by
  simp only [State.abandonRead, hr, h, if_true]
end

theorem State.discardPass_none (hr : s.watch.read = none) :
    s.discardPass = s.setWatch { s.watch with pass := readingsNone, next := 0 } := by
  simp only [State.discardPass, State.abandonRead_none hr]

theorem State.discardPass_waiting {r : WatchRead} (hr : s.watch.read = some r) (h : s.watchReadRunning = false) :
    s.discardPass = (s.setWatch { s.watch with read := none, pass := readingsNone, next := 0 }).setPort
      { s.port with watch := none } := by
  simp only [State.discardPass, State.abandonRead_waiting hr h]
  rfl

theorem State.discardPass_running {r : WatchRead} (hr : s.watch.read = some r) (h : s.watchReadRunning = true) :
    s.discardPass = s.setWatch { s.watch with
      read := some { r with discard := true }, pass := readingsNone, next := 0 } := by
  simp only [State.discardPass, State.abandonRead_running hr h]
  rfl

theorem State.watchReadRunning_iff (s : State) :
    s.watchReadRunning = true ↔
      (∃ g, s.bus.group = some g ∧ g.user = .watch) ∨ ∃ u, s.port.turn = some u ∧ u.requester = .watch := by
  unfold State.watchReadRunning
  cases s.bus.group <;> cases s.port.turn <;> simp

/-! ### The start of a pass (R144, R147) -/

theorem State.watchBegin_eq (s : State) :
    s.watchBegin = s.abandonRead.setWatch { s.abandonRead.watch with
      pass := readingsNone, next := 0, state := .scanning, rest := none } := rfl

theorem State.takeWatchStart_state (tag : Word) (h : ∀ i : Fin 8, s.watch.slots[i.val] = none) :
    s.takeWatchStart tag [] = s.refuse 0x39 tag .state := by
  have empty : ¬ s.watch.anyValid = true := by
    rw [Watch.anyValid_iff]
    exact fun ⟨i, hi⟩ => hi (h i)
  simp only [State.takeWatchStart, State.noData, if_true, if_neg empty]

theorem State.takeWatchStart_begins (tag : Word) (h : ∃ i : Fin 8, s.watch.slots[i.val] ≠ none) :
    s.takeWatchStart tag [] = (s.watchBegin.readied 0xB9 tag (.watchState .scanning)).settleBlocks := by
  simp only [State.takeWatchStart, State.noData, if_true, (Watch.anyValid_iff _).mpr h]
  rfl

theorem State.watchRestExpiry_begins (hs : s.watch.state = .resting) (hr : s.watch.rest ≠ none) :
    s.watchRestExpiry = s.watchBegin := if_pos ⟨hs, hr⟩

theorem State.watchRestExpiry_other (h : s.watch.state ≠ .resting ∨ s.watch.rest = none) : s.watchRestExpiry = s :=
  if_neg fun ⟨hs, hr⟩ => h.elim (· hs) hr

/-! ### The next read of a pass (R145, R147, R152) -/

theorem Watch.nextSlot_some {w : Watch} {i : Fin 8} {e : WatchEntry} (he : w.slots[i.val] = some e)
    (hn : w.next ≤ i.val) (h : ∀ j : Fin 8, j < i → w.next ≤ j.val → w.slots[j.val] = none) :
    w.nextSlot = some i := by
  refine (find?_eq_some_iff_least Fin.val (List.pairwise_lt_finRange 8) _ i).mpr
    ⟨List.mem_finRange i, by simp [he, hn], fun j _ hj => ?_⟩
  simpa using h j hj

theorem Watch.nextSlot_none {w : Watch} (h : ∀ j : Fin 8, w.next ≤ j.val → w.slots[j.val] = none) :
    w.nextSlot = none :=
  List.find?_eq_none.mpr fun j _ => by simpa using h j

/-- The watch unit goes on with its pass: SCANNING, with no read in flight and SRESET released. -/
def State.WatchGoesOn (s : State) : Prop :=
  s.watch.state = .scanning ∧ s.watch.read = none ∧ s.inSlotReset = false

theorem State.not_watchGoesOn (h : s.watch.state ≠ .scanning ∨ s.watch.read ≠ none ∨ s.sreset ≠ .released) :
    ¬ s.WatchGoesOn := fun ⟨hs, hr, hx⟩ =>
  h.elim (· hs) fun h => h.elim (· hr) (· (s.inSlotReset_false.mp hx))

section
variable (k : Nat)

theorem State.watchContinue_rests (h : ¬ s.WatchGoesOn) : State.watchContinue (k + 1) s = s := if_neg h

theorem State.watchReads_rests (h : ¬ s.WatchGoesOn) : State.watchReads (k + 1) s = s := if_neg h

variable (h : s.WatchGoesOn)
include h

theorem State.watchContinue_completes (hn : s.watch.nextSlot = none) :
    State.watchContinue (k + 1) s = State.watchContinue k (State.engineChoose 24 s.watchComplete) := by
  refine (if_pos h).trans ?_
  simp only [hn, engineFuel]

theorem State.watchReads_passRead (hn : s.watch.nextSlot = none) : State.watchReads (k + 1) s = s := by
  refine (if_pos h).trans ?_
  simp only [hn]

variable {i : Fin 8} {e : WatchEntry} (hn : s.watch.nextSlot = some i) (he : s.watch.slots[i.val] = some e)
include hn he

theorem State.watchContinue_reads :
    State.watchContinue (k + 1) s = State.watchContinue k (s.watchStartRead i e) := by
  refine (if_pos h).trans ?_
  simp only [hn, he]

theorem State.watchReads_reads : State.watchReads (k + 1) s = State.watchReads k (s.watchStartRead i e) := by
  refine (if_pos h).trans ?_
  simp only [hn, he]
end

/-! ### The start of a read (R145, R146) -/

section
variable {i : Fin 8} {e : WatchEntry}

theorem State.watchStartRead_refused {k : FaultKind}
    (h : checkElement (lookup s.windows e.space e.address) false e.address e.width = some k) :
    s.watchStartRead i e = s.setWatch { s.watch with
      pass := s.watch.pass.set i.val (some (.fault k)), next := i.val + 1 } := by
  simp only [State.watchStartRead, h]
  rfl

variable (h : checkElement (lookup s.windows e.space e.address) false e.address e.width = none)
include h

theorem State.watchStartRead_baseMemory (ho : (lookup s.windows e.space e.address).owner = .baseMemory) :
    s.watchStartRead i e = (s.setWatch { s.watch with
      read := some ⟨i, e.space, e.address, e.width, lookup s.windows e.space e.address, false⟩ }).setPort
        { s.port with watch := some ⟨.watch, e.address, e.width, .read⟩ } := by
  simp only [State.watchStartRead, h, ho]
  rfl

theorem State.watchStartRead_card (ho : (lookup s.windows e.space e.address).owner ≠ .baseMemory) :
    s.watchStartRead i e = s.setWatch { s.watch with
      read := some ⟨i, e.space, e.address, e.width, lookup s.windows e.space e.address, false⟩ } := by
  simp only [State.watchStartRead, h]
  cases hw : (lookup s.windows e.space e.address).owner with
  | baseMemory => exact absurd hw ho
  | _ => rfl
end

/-- Settles O36: the two starts of a pass, the read in flight by whether it runs, the next read by the next valid entry
(`Watch.nextSlot_some`, `Watch.nextSlot_none`), the start of a read by its checks and its window. -/
theorem watchStartBeginsAPass : Obligations.WatchStartBeginsAPass := by
  refine ⟨fun tag s => ?_, fun k s => ⟨fun h => State.watchContinue_rests k (State.not_watchGoesOn h),
      fun hs hr hx => ?_⟩,
    fun k s => ⟨rfl, fun h => State.watchReads_rests k (State.not_watchGoesOn h), fun hs hr hx => ?_⟩,
    fun s i e => ⟨fun k => State.watchStartRead_refused, fun h =>
      ⟨State.watchStartRead_baseMemory h, State.watchStartRead_card h⟩⟩⟩
  · intro begun
    have fits : RequestBody.size .watchStart + ([] : List Byte).length ≤ 1094 := by simp [RequestBody.size]
    refine ⟨fun h => ⟨fun hn => ?_, fun hv => ?_⟩, s.watchBegin_eq, s.watchReadRunning_iff, fun hs hr => ?_,
      fun hs => ?_, State.abandonRead_none, fun r => State.abandonRead_waiting, fun r => State.abandonRead_running⟩
    · exact exec_answered h (.watchStart tag []) rfl fits (x := s) rfl (State.takeWatchStart_state tag hn)
    · exact exec_readied h (.watchStart tag []) rfl fits s.link_watchBegin (State.takeWatchStart_begins tag hv)
    · exact next_settle_congr (State.watchRestExpiry_begins hs hr)
    · exact next_settle_congr (State.watchRestExpiry_other hs)
  · have goes : s.WatchGoesOn := ⟨hs, hr, s.inSlotReset_false.mpr hx⟩
    exact ⟨fun i e he hn hl => State.watchContinue_reads k goes (Watch.nextSlot_some he hn hl) he,
      fun hn => State.watchContinue_completes k goes (Watch.nextSlot_none hn)⟩
  · have goes : s.WatchGoesOn := ⟨hs, hr, s.inSlotReset_false.mpr hx⟩
    exact ⟨fun i e he hn hl => State.watchReads_reads k goes (Watch.nextSlot_some he hn hl) he,
      fun hn => State.watchReads_passRead k goes (Watch.nextSlot_none hn)⟩

/-! ### WATCH_STOP (R150) -/

/-- The watch unit with its stop reached; a read in flight is not the stop's (R150). -/
def Watch.halted (w : Watch) : Watch :=
  { w with state := .stopped, stopping := false, rest := none, pass := readingsNone, next := 0 }

/-- The stop answers the WatchStop that waits for it. -/
theorem State.watchStopped_answers {tag : Word} (h : s.link.slot = .working .watchStop 0x3A tag) :
    s.watchStopped = (s.setWatch s.watch.halted).readied 0xBA tag (.watchState .stopped) :=
  State.finishWork_working (s := s.setWatch s.watch.halted) h _

theorem State.watch_setSlot (s : State) (x : Slot) : (s.setSlot x).watch = s.watch := rfl

theorem State.discardPass_setSlot (s : State) (x : Slot) : (s.setSlot x).discardPass = s.discardPass.setSlot x := by
  rw [State.discardPass_eq, State.discardPass_eq]
  rfl

section
variable (tag : Word)

theorem State.takeWatchStop_notScanning (h : s.watch.state ≠ .scanning) :
    s.takeWatchStop tag [] =
      ((s.setWatch s.watch.halted).readied 0xBA tag (.watchState .stopped)).settleBlocks := by
  have other : (s.setSlot (.working .watchStop 0x3A tag)).watch.state ≠ .scanning := h
  simp only [State.takeWatchStop, State.noData, if_true, if_neg other]
  rw [State.watchStopped_answers rfl]
  rfl

variable (hs : s.watch.state = .scanning)
include hs

/-- The stop of a SCANNING unit with no read left once its pass is discarded. -/
theorem State.takeWatchStop_reached (hr : s.discardPass.watch.read = none) :
    s.takeWatchStop tag [] =
      ((s.discardPass.setWatch s.discardPass.watch.halted).readied 0xBA tag (.watchState .stopped)).settleBlocks := by
  simp only [State.takeWatchStop, State.noData, if_true, State.watch_setSlot, hs, State.discardPass_setSlot, hr,
    Option.isSome_none, Bool.false_eq_true, if_false]
  rw [State.watchStopped_answers rfl]
  rfl

/-- The stop of a SCANNING unit whose read runs on waits for it. -/
theorem State.takeWatchStop_waits {r : WatchRead} (hr : s.discardPass.watch.read = some r) :
    s.takeWatchStop tag [] =
      (s.discardPass.setWatch { s.discardPass.watch with stopping := true }).setSlot
        (.working .watchStop 0x3A tag) := by
  simp only [State.takeWatchStop, State.noData, if_true, State.watch_setSlot, hs, State.discardPass_setSlot, hr,
    Option.isSome_some]
  rfl
end

/-- A request whose taking begins a work that its reply waits for. -/
theorem exec_works (h : s.Listening) (c : Instr) {tag : Word} {b : RequestBody} {d : List Byte}
    (hc : c.request? = some ⟨tag, b, d⟩) (hl : b.size + d.length ≤ 1094) {x : State} (hx : x.link = s.link)
    {w : Work} {kind : Byte} (hs : s.serve ⟨tag, b, d⟩ = x.setSlot (.working w kind tag)) :
    exec c s = .next (x.setSlot (.working w kind tag)).settleLink := by
  have taken : s.takeFramed (.request ⟨tag, b, d⟩) = x.setSlot (.working w kind tag) :=
    (if_neg (by simpa [Config.maxMessage] using HostRequest.length_small hl)).trans hs
  have configured : (x.setSlot (.working w kind tag)).link.state = .configured :=
    (congrArg (·.state) hx).trans h.configured
  have noneWaiting : (x.setSlot (.working w kind tag)).link.pipe = [] := (congrArg (·.pipe) hx).trans h.noneWaiting
  rw [exec_request hc, h.arrive _ (taken ▸ noneWaiting), taken, State.settleLink_takes configured noneWaiting]

/-- Settles O37: a unit whose pass runs by the read that is left once the pass is discarded, any other at once. -/
theorem watchStopStops : Obligations.WatchStopStops := by
  intro tag s h stop
  have fits : RequestBody.size .watchStop + ([] : List Byte).length ≤ 1094 := by simp [RequestBody.size]
  have reached {x : State} (hx : x.link = s.link)
      (hs : s.takeWatchStop tag [] = (x.readied 0xBA tag (.watchState .stopped)).settleBlocks) :
      exec (.watchStop tag []) s = .next (x.readied 0xBA tag (.watchState .stopped)).settle :=
    exec_readied h _ rfl fits hx hs
  refine ⟨fun hn => reached rfl ?_, fun r hs hr hw => reached rfl ?_, fun r hs hr hw => ?_⟩
  · by_cases hs : s.watch.state = .scanning
    · have discarded := State.discardPass_none (hn.resolve_left (· hs))
      have left : s.discardPass.watch.read = none := by rw [discarded]; exact hn.resolve_left (· hs)
      rw [State.takeWatchStop_reached tag hs left, discarded]
      rfl
    · exact State.takeWatchStop_notScanning tag hs
  · have discarded := State.discardPass_waiting hr hw
    have left : s.discardPass.watch.read = none := by rw [discarded]; rfl
    rw [State.takeWatchStop_reached tag hs left, discarded]
    rfl
  · have discarded := State.discardPass_running hr hw
    have left : s.discardPass.watch.read = some { r with discard := true } := by rw [discarded]; rfl
    have waits := State.takeWatchStop_waits tag hs left
    rw [discarded] at waits
    refine exec_works h (.watchStop tag []) rfl fits ?_ waits
    rfl

end Sys2Proof.Machine
end

/-! ## Notices: what a posting makes of the queue (R114, R134, R149, R154, R155) -/
section
namespace Sys2Proof.Machine

/-- What a posting of the source makes of one waiting notice: its own takes the merge, any other stays (R155). -/
def Notice.posted (src : Source) (b : NoticeBody) (n : Notice) : Notice :=
  if n.source = src then ⟨n.source, addCount n.occurrences 1, mergeBody n.body b⟩ else n

section
variable {ns xs ys : List Notice} {src : Source} {n : Notice} {b : NoticeBody}

theorem Notice.posted_own : n.posted n.source b = ⟨n.source, addCount n.occurrences 1, mergeBody n.body b⟩ :=
  if_pos rfl

theorem Notice.map_posted_others (h : ∀ k ∈ ns, k.source ≠ src) : ns.map (Notice.posted src b) = ns :=
  calc ns.map (Notice.posted src b)
    _ = ns.map id := List.map_congr_left fun k hk => if_neg (h k hk)
    _ = ns := List.map_id ns

theorem postTo_noneWaiting (h : ∀ k ∈ ns, k.source ≠ src) : postTo ns src b = ns ++ [⟨src, 1, b⟩] :=
  if_neg (by simpa using h)

theorem postTo_waiting (h : n ∈ ns) : postTo ns n.source b = ns.map (Notice.posted n.source b) :=
  if_pos (List.any_eq_true.mpr ⟨n, h, beq_self_eq_true n.source⟩)

/-- In a queue with one notice for each source (R154) the notices around one are of other sources. -/
theorem noticesOk.others (h : noticesOk (xs ++ n :: ys)) :
    (∀ k ∈ xs, k.source ≠ n.source) ∧ ∀ k ∈ ys, k.source ≠ n.source := by
  rw [noticesOk, List.map_append, List.map_cons, List.nodup_middle, List.nodup_cons] at h
  obtain ⟨alone, -⟩ := h
  have elsewhere (k : Notice) (hk : k ∈ xs ++ ys) : k.source ≠ n.source := fun same =>
    alone (List.map_append ▸ same ▸ List.mem_map_of_mem hk)
  exact ⟨fun k hk => elsewhere k (List.mem_append_left ys hk), fun k hk => elsewhere k (List.mem_append_right xs hk)⟩

/-- A posting with a notice of its source waiting changes that notice alone, in its place. -/
theorem postTo_merges (h : noticesOk (xs ++ n :: ys)) :
    postTo (xs ++ n :: ys) n.source b = xs ++ ⟨n.source, addCount n.occurrences 1, mergeBody n.body b⟩ :: ys := by
  obtain ⟨before, behind⟩ := h.others
  rw [postTo_waiting List.mem_append_cons_self, List.map_append, List.map_cons, Notice.posted_own,
    Notice.map_posted_others before, Notice.map_posted_others behind]
end

theorem addCount_eq_min (a b : Nat) : addCount a b = min 65535 (a + b) := Nat.min_comm _ _

theorem addEdges_eq_min (a b : Nat) : addEdges a b = min 255 (a + b) := Nat.min_comm _ _

theorem mergeLine_eq (x y : LineBody) : mergeLine x y = { y with
    edges := min 255 (x.edges + y.edges), resultLost := x.resultLost || (x.status != .none) } := by
  rw [mergeLine, addEdges_eq_min]

/-- The fault of the newer posting, or the one already carried when it has none (R134). -/
theorem mergeChannel_eq (x y : ChannelBody) : mergeChannel x y = { y with fault := y.fault <|> x.fault } := by
  unfold mergeChannel
  cases y.fault <;> rfl

/-- Settles O57: the queue by whether a notice of the source waits (`postTo_noneWaiting`, `postTo_merges`), the body by
the merge rule of its source's kind. -/
theorem postingsAppendOrMerge : Obligations.PostingsAppendOrMerge := by
  refine ⟨fun ns src b => postTo_noneWaiting, fun xs ys n b distinct => ?_, fun x y => ?_, fun x y => ?_,
    fun x y => rfl, fun x y => rfl, fun x y => rfl⟩
  · rw [postTo_merges distinct, addCount_eq_min]
  · exact congrArg NoticeBody.line (mergeLine_eq x y)
  · exact congrArg NoticeBody.channel (mergeChannel_eq x y)

end Sys2Proof.Machine
end

/-! ## The link interface: the message that is taken, and the transfers that wait (R53, R157, R163, R166, R167) -/
section
namespace Sys2Proof.Machine

variable {s : State}

/-! ### Taking one message -/

theorem State.takeMessage_sending {m : Message} (h : s.link.report = .sending m) : s.takeMessage = s := by
  cases hs : s.link.state <;> simp only [State.takeMessage, hs, h]

theorem State.takeMessage_detached (h : s.link.state = .detached) : s.takeMessage = s := by
  simp only [State.takeMessage, h]

/-- The report pipe can take a message: it is FREE and the link CONFIGURED. -/
structure State.CanSend (s : State) : Prop where
  configured : s.link.state = .configured
  free : s.link.report = .free

theorem State.CanSend.reply (h : s.CanSend) {r : Reply} (hr : s.link.slot = .ready r) :
    s.takeMessage = s.setLink { s.link with slot := .empty, report := .sending (.reply r) } := by
  simp only [State.takeMessage, h.configured, h.free, hr]

theorem State.CanSend.queued (h : s.CanSend) (hr : ∀ r, s.link.slot ≠ .ready r) : s.takeMessage = s.takeQueued := by
  cases hs : s.link.slot with
  | ready r => exact absurd hs (hr r)
  | _ => simp only [State.takeMessage, h.configured, h.free, hs]

theorem State.takeQueued_finished {e : Entry} {es : List Entry} (hq : s.queue.entries = e :: es)
    (he : e.isFinished = true) :
    s.takeQueued = (s.setQueue { s.queue with entries := es }).setLink
      { s.link with report := .sending (.reply ⟨e.op.kind ||| 0x80, e.status, e.tag, .entry e⟩) } := by
  simp only [State.takeQueued, hq, he, if_true]
  rfl

theorem State.takeQueued_unfinished (h : ∀ e ∈ s.queue.entries.head?, e.isFinished = false) :
    s.takeQueued = s.takeNotice := by
  cases hq : s.queue.entries with
  | nil => simp only [State.takeQueued, hq]
  | cons e es =>
    have unfinished : e.isFinished = false := h e (by rw [hq]; rfl)
    simp only [State.takeQueued, hq, unfinished, Bool.false_eq_true, if_false]

theorem State.takeNotice_none (h : s.notices = []) : s.takeNotice = s := by
  simp only [State.takeNotice, h]

theorem State.takeNotice_other {n : Notice} {ns : List Notice} (h : s.notices = n :: ns)
    (hb : ∀ b, n.body ≠ .channel b) :
    s.takeNotice = (s.setNotices ns).setLink { s.link with report := .sending (.notice n) } := by
  have untouched : (s.setNotices ns).noticeSent n = s.setNotices ns := by
    cases body : n.body with
    | channel b => exact absurd body (hb b)
    | _ => simp only [State.noticeSent, body]
  simp only [State.takeNotice, h, untouched]
  rfl

/-- The record of a channel once a notice that carried `b` is transmitted (R135). -/
def Channel.noticeTaken (c : Channel) (b : ChannelBody) : Channel :=
  { c with
    blocksDone := c.blocksDone - b.blocksDone
    overrun := c.overrun && !b.overrun
    protectHit := c.protectHit && !b.protectHit }

theorem State.takeNotice_channel {n : Notice} {ns : List Notice} {b : ChannelBody} (h : s.notices = n :: ns)
    (hb : n.body = .channel b) :
    s.takeNotice = ((s.setNotices ns).setChannel b.channel ((s.channel b.channel).noticeTaken b)).setLink
      { s.link with report := .sending (.notice n) } := by
  simp only [State.takeNotice, h, State.noticeSent, hb]
  rfl

/-! ### REPORT_TRANSFER_COMPLETE and the transfers that wait -/

/-- The state in which the report pipe has gone FREE. -/
def State.reportFreed (s : State) : State := s.setLink { s.link with report := .free }

theorem State.canSend_reportFreed (h : s.link.state = .configured) : s.reportFreed.CanSend := ⟨h, rfl⟩

theorem exec_reportTransferComplete (h : s.link.state = .configured) :
    exec .reportTransferComplete s = .next (State.drain s.link.pipe s.reportFreed.takeMessage) := by
  have settles : s.reportFreed.settleLink = s.reportFreed.takeMessage.drain s.reportFreed.link.pipe := by
    simp only [State.settleLink, (State.canSend_reportFreed h).configured]
  exact congrArg _ settles

/-- With no transfer waiting, the completion of a transfer is the taking of the next message. -/
theorem exec_reportTransferComplete_takes (h : s.link.state = .configured) (hp : s.link.pipe = []) :
    exec .reportTransferComplete s = .next s.reportFreed.takeMessage :=
  congrArg _ (State.settleLink_takes (State.canSend_reportFreed h).configured hp)

theorem State.drain_empty {f : Framed} {fs : List Framed} (h : s.link.slot = .empty) :
    State.drain (f :: fs) s = State.drain fs (s.takeFramed f).takeMessage := by
  simp only [State.drain, h]

theorem State.drain_held {f : Framed} {fs : List Framed} (h : s.link.slot ≠ .empty) :
    State.drain (f :: fs) s = s.setLink { s.link with pipe := f :: fs } := by
  cases hs : s.link.slot with
  | empty => exact absurd hs h
  | _ => simp only [State.drain, hs]

/-- With no transfer waiting, a transfer is taken from the pipe as it arrives. -/
theorem State.arrive_drain (h : s.link.state = .configured) (hp : s.link.pipe = []) (f : Framed) :
    s.arrive f = State.drain [f] s := by
  simp only [State.arrive, h, hp, List.nil_append]

/-! ### The status of a finished entry's reply (R53) -/

theorem Entry.status_failed {e : Entry} {f : FailRecord} (h : e.state = .failed) (hf : e.fail = some f) :
    e.status = f.kind.status := by
  simp only [Entry.status, h, hf]

/-- Settles O13: one message by what waits, the completion of a transfer through the freed pipe, the transfers one
after another. -/
theorem reportPipeTakesInOrder : Obligations.ReportPipeTakesInOrder := by
  refine ⟨fun s hc hp => ?_, fun s hc => exec_reportTransferComplete hc, fun s hc hf => ?_,
    fun s => ⟨fun m => State.takeMessage_sending, State.takeMessage_detached⟩,
    fun s => ⟨rfl, fun f fs => ⟨State.drain_empty, State.drain_held⟩⟩,
    fun i r s hr hc hp => (exec_request hr s).trans (congrArg _ (State.arrive_drain hc hp _)),
    fun l s hc hp => congrArg _ (State.arrive_drain hc hp _),
    fun e => ⟨fun h => ?_, fun f h hf => ?_, fun h => ?_, fun h => ?_⟩⟩
  · have free := State.canSend_reportFreed hc
    rw [exec_reportTransferComplete_takes hc hp]
    refine ⟨fun r hr => congrArg _ (free.reply hr), fun hr => ?_⟩
    rw [free.queued hr]
    refine ⟨fun e es hq he => congrArg _ (State.takeQueued_finished hq he), fun hq => ?_⟩
    rw [State.takeQueued_unfinished (s := s.reportFreed) hq]
    exact ⟨fun hn => congrArg _ (State.takeNotice_none hn), fun n ns hn hb => congrArg _ (State.takeNotice_other hn hb),
      fun n ns b hn hb => congrArg _ (State.takeNotice_channel hn hb)⟩
  · have free : s.CanSend := ⟨hc, hf⟩
    refine ⟨fun r => free.reply, fun hr => ?_⟩
    rw [free.queued hr]
    refine ⟨fun e es => State.takeQueued_finished, fun hq => ?_⟩
    rw [State.takeQueued_unfinished hq]
    exact ⟨State.takeNotice_none, fun n ns => State.takeNotice_other, fun n ns b => State.takeNotice_channel⟩
  · have status : e.status = .ok := by simp only [Entry.status, h]
    exact ⟨status, congrArg statusByte status⟩
  · rw [Entry.status_failed h hf]
    refine ⟨rfl, ?_⟩
    cases f.kind <;> rfl
  · have status : e.status = .cancelled := by simp only [Entry.status, h]
    exact ⟨status, congrArg statusByte status⟩
  · have status : e.status = .flushed := by simp only [Entry.status, h]
    exact ⟨status, congrArg statusByte status⟩

/-- Settles O9: what arrives at a DETACHED link, and what arrives while the slot is held. -/
theorem requestsDiscardedOrHeldOff : Obligations.RequestsDiscardedOrHeldOff :=
  ⟨⟨fun _ _ s hr hd => (exec_request hr s).trans (congrArg _ (State.arrive_detached hd _)),
      fun _ _ hd => congrArg _ (State.arrive_detached hd _)⟩,
    fun _ _ s hr hc hs => (exec_request hr s).trans (congrArg _ (State.arrive_held hc hs _)),
    fun _ _ hc hs => congrArg _ (State.arrive_held hc hs _)⟩

end Sys2Proof.Machine
end

/-! ## Power-on and part reset (R36, R39, R171, R173) -/
section
namespace Sys2Proof.Machine

variable {s : State}

/-- The values that power-on and part reset give every block, the refresh timer and the card levels apart. -/
structure State.Fresh (t : State) : Prop where
  windows : t.windows = windowsInitial
  bus : t.bus = Bus.initial
  arbiter : t.arbiter = .idle
  port : t.port = { Port.initial with turn := t.port.turn }
  queue : t.queue = Queue.initial
  engine : t.engine = Engine.initial
  watch : t.watch = Watch.initial
  notices : t.notices = []

/-- The blocks hold the values of the rules' tables, each block's by its own definition. -/
theorem State.Fresh.initial {t : State} (h : t.Fresh) {timer : Option Nat} {sreq : Fin 4 → Bool} {level : Fin 8 → Bool}
    (hr : t.refresh = Refresh.initial timer) (hc : ∀ n, t.channel n = Channel.initial (sreq n))
    (hl : ∀ n, t.line n = Line.initial (level n)) : t.Initial timer sreq level where
  window := by rw [h.windows]; rfl
  noWindow := by rw [h.windows]; decide
  bus := h.bus
  arbiter := h.arbiter
  refresh := hr
  units := by rw [h.port]; exact ⟨rfl, rfl, rfl, rfl, rfl⟩
  queue := h.queue
  engine := h.engine
  channels := hc
  lines := hl
  watch := h.watch
  notices := h.notices

/-- Settles O4: power-on puts every block at its initial value. -/
theorem powerOnValues : Obligations.PowerOnValues := by
  intro sfault sint sreq s
  have fresh : (State.powerOn s.pending s.free s.mem sfault sint sreq).Fresh := ⟨rfl, rfl, rfl, rfl, rfl, rfl, rfl, rfl⟩
  refine ⟨_, rfl, fresh.initial rfl (fun n => ?_) (fun n => ?_), rfl, rfl, rfl, rfl, rfl, rfl, rfl⟩
  · simp only [State.channel, State.powerOn, Vector.getElem_ofFn]
  · simp only [State.line, State.powerOn, Vector.getElem_ofFn]

/-- Settles O5: the initial records of the reset state keep each promise. -/
theorem promisesHoldAtReset : Obligations.PromisesHoldAtReset := by
  refine ⟨rfl, rfl, windowsOk_initial, ⟨Nat.zero_le _, List.nodup_nil⟩,
    ⟨.nil, fun h => absurd h Bool.false_ne_true⟩, List.nodup_nil, fun n => ?_⟩
  simp only [State.channel, State.reset, State.powerOn, Vector.getElem_ofFn]
  exact Channel.Ok.empty rfl rfl

/-! ### PART_RESET -/

/-- The state after the taking of a PartReset. -/
def State.partResetTaken (s : State) (tag : Word) : State :=
  s.partResetBlocks.setLink { s.link with slot := .working .partReset 0x03 tag, resetting := true }

theorem State.initial_partResetTaken (s : State) (tag : Word) :
    (s.partResetTaken tag).Initial none (fun n => (s.channel n).sreq) (fun n => (s.line n).level) := by
  have fresh : (s.partResetTaken tag).Fresh := ⟨rfl, rfl, rfl, rfl, rfl, rfl, rfl, rfl⟩
  refine fresh.initial rfl (fun n => ?_) (fun n => ?_)
  · simp only [State.channel, State.partResetTaken, State.partResetBlocks, State.channels_setLink, Vector.getElem_ofFn]
  · simp only [State.line, State.partResetTaken, State.partResetBlocks, State.lines_setLink, Vector.getElem_ofFn]

/-- With the slot WORKING, the request queue empty and no notice, the report pipe is given nothing. -/
theorem State.takeMessage_partResetTaken (s : State) (tag : Word) :
    (s.partResetTaken tag).takeMessage = s.partResetTaken tag := by
  cases hc : s.link.state with
  | detached => exact State.takeMessage_detached hc
  | configured =>
    cases hr : s.link.report with
    | sending m => exact State.takeMessage_sending hr
    | free =>
      have canSend : (s.partResetTaken tag).CanSend := ⟨hc, hr⟩
      have slot : (s.partResetTaken tag).link.slot = .working .partReset 0x03 tag := rfl
      have entries : (s.partResetTaken tag).queue.entries = [] := rfl
      rw [canSend.queued (by simp [slot]), State.takeQueued_unfinished (by simp [entries]), State.takeNotice_none rfl]

theorem State.takeFramed_fits {r : HostRequest} (h : r.length ≤ 1100) : s.takeFramed (.request r) = s.serve r :=
  if_neg (Nat.not_lt.mpr h)

theorem exec_partReset (h : s.Listening) (tag : Word) : exec (.partReset tag []) s = .next (s.partResetTaken tag) := by
  have taken : s.takeFramed (.request ⟨tag, .partReset, []⟩) = s.partResetTaken tag :=
    State.takeFramed_fits (HostRequest.length_small (by simp [RequestBody.size]))
  rw [exec_request rfl, h.arrive _ (taken ▸ h.noneWaiting), taken, s.takeMessage_partResetTaken]

/-! ### PART_RESET_END -/

theorem State.partResetEnd_answers {kind : Byte} {tag : Word} (hr : s.link.resetting = true) (ht : s.port.turn = none)
    (hs : s.link.slot = .working .partReset kind tag) :
    s.partResetEnd = (s.setRefresh { s.refresh with timer := some 15 }).setLink
      { s.link with resetting := false, slot := .ready ⟨kind ||| 0x80, .ok, tag, .none⟩ } := by
  simp only [State.partResetEnd, hr, ht, and_self, if_true, State.finishWork, State.link_setRefresh,
    State.link_setLink, hs]
  rfl

theorem State.partResetEnd_idle (h : s.link.resetting = false ∨ s.port.turn ≠ none) : s.partResetEnd = s :=
  if_neg fun ⟨running, noTurn⟩ => h.elim (fun stopped => Bool.false_ne_true (stopped.symm.trans running)) (· noTurn)

/-- Settles O6: the taking of a PartReset, and its end by what it finds. -/
theorem partResetAndItsEnd : Obligations.PartResetAndItsEnd := by
  refine ⟨fun tag s h => ⟨s.partResetTaken tag, exec_partReset h tag, s.initial_partResetTaken tag, rfl, rfl, rfl,
      ?_, ?_, rfl, rfl⟩,
    fun kind tag s hr ht hs => next_settle_congr (State.partResetEnd_answers hr ht hs),
    fun s h => next_settle_congr (State.partResetEnd_idle h)⟩
  · show (match s.sreset with | .powerOn => SReset.powerOn | .released | .slotReset => .released) = .powerOn ↔ _
    cases s.sreset <;> simp
  · intro hs
    show (match s.sreset with | .powerOn => SReset.powerOn | .released | .slotReset => .released) = .released
    cases hr : s.sreset with
    | powerOn => exact absurd hr hs
    | _ => rfl

end Sys2Proof.Machine
end

/-! ## Requests about the part (R52, R163, R168, R169) -/
section
namespace Sys2Proof.Machine

variable {s : State}

/-- Settles O14: the reply is formed as the request is taken; its fields are constants of the part. -/
theorem identifyAnswers : Obligations.IdentifyAnswers :=
  ⟨fun tag _ h => exec_answered h (.identify tag []) rfl (by simp [RequestBody.size]) rfl rfl, rfl⟩

/-! ### The sub-state of an entry (R52) -/

/-- The ACTIVE entry's element is in a cycle of the slot bus or in a turn of the memory port. -/
theorem State.entryRunning_iff (s : State) : s.entryRunning = true ↔
    ∃ el, s.engine.element = some el ∧ el.item = .entry ∧
      ((∃ g, s.bus.group = some g ∧ g.user = .engine) ∨ ∃ u, s.port.turn = some u ∧ u.requester = .engine) := by
  cases he : s.engine.element with
  | none => simp [State.entryRunning, he]
  | some el =>
    cases hg : s.bus.group <;> cases ht : s.port.turn <;> simp [State.entryRunning, State.groupOf, he, hg, ht]

theorem State.subState_await {e : Entry} {src : AwaitSource} {ms : Nat} (h : e.op = .await src ms) :
    s.subState e = .waitEvent := by
  simp only [State.subState, h]

theorem State.subState_timed {e : Entry} {d : Nat} (h : e.op = .delay d ∨ e.op = .slotReset d) :
    s.subState e = .waitTime := by
  rcases h with h | h <;> simp only [State.subState, h]

/-- An element kind waits for its interval timer, else runs or waits for the bus. -/
theorem State.subState_element {e : Entry} (ha : ∀ src ms, e.op ≠ .await src ms)
    (hd : ∀ d, e.op ≠ .delay d ∧ e.op ≠ .slotReset d) :
    s.subState e = if e.timer.isSome then .waitTime else if s.entryRunning then .inCycle else .waitBus := by
  cases h : e.op with
  | await src ms => exact absurd h (ha src ms)
  | delay d => exact absurd h (hd d).1
  | slotReset d => exact absurd h (hd d).2
  | _ => simp only [State.subState, h]

/-- Settles O15: the report is formed as the request is taken; the sub-state by the kind of the entry. -/
theorem statusGetReportsTheState : Obligations.StatusGetReportsTheState := by
  refine ⟨fun tag s h => ⟨s.statusReport,
      exec_answered h (.statusGet tag []) rfl (by simp [RequestBody.size]) rfl rfl, rfl, rfl, rfl, fun ha => ?_,
      fun e ha => ?_, fun n => ?_, fun n => ?_, rfl, rfl, rfl, rfl, rfl⟩,
    fun s e => ⟨fun src ms => State.subState_await, fun d => State.subState_timed,
      fun ha hd => ⟨fun ht => ?_, fun ht hr => ?_, fun ht hr => ?_⟩⟩⟩
  · simp only [State.statusReport, ha, Option.map_none]
  · simp only [State.statusReport, ha, Option.map_some]
  · simp only [State.statusReport, Vector.getElem_ofFn, Channel.report]
  · simp only [State.statusReport, Vector.getElem_ofFn, Line.report]
  · rw [State.subState_element ha hd, if_pos (Option.isSome_iff_ne_none.mpr ht)]
  · rw [State.subState_element ha hd, if_neg (by simp [ht]), if_pos (s.entryRunning_iff.mpr hr)]
  · rw [State.subState_element ha hd, if_neg (by simp [ht]), if_neg (fun k => hr (s.entryRunning_iff.mp k))]

/-! ### Data bytes that a kind does not carry (R163) -/

/-- A kind without data refuses data bytes, each by the check of its own rule. -/
theorem State.serve_data {b : RequestBody} (hb : b.takesData = false) (tag : Word) {data : List Byte} (hd : data ≠ []) :
    s.serve ⟨tag, b, data⟩ = s.refuse b.kind tag .badField := by
  have queued (kind : Byte) (op : Option Op) :
      s.admission kind tag (onlyWithout data op) = s.refuse kind tag .badField := by
    rw [onlyWithout, if_neg hd]
    rfl
  cases b with
  | memoryWrite _ | transfer _ | lineSet _ => exact absurd hb.symm Bool.false_ne_true
  | read _ | write _ _ | modify _ _ _ | scan _ | compare _ | delay _ | await _ _ | slotReset _ => exact queued _ _
  | _ => exact if_neg hd

/-- Settles O10: such a request is taken and answered by its refusal. -/
theorem dataBytesRefused : Obligations.DataBytesRefused := by
  rintro i ⟨tag, b, data⟩ s hr hwf hb hd h
  rw [exec_request hr]
  exact congrArg _ (h.answered _ (HostRequest.length_le hwf) s rfl _ (State.serve_data hb tag hd))

end Sys2Proof.Machine
end

/-! ## The framing (R163, R174) -/
section
namespace Sys2Proof

/-! ### The kinds -/

/-- A request of each kind, every field 0. -/
def RequestBody.listed : List RequestBody :=
  let card : CardFields := ⟨0, 0, 0⟩
  [.identify, .statusGet, .partReset, .windowSet ⟨0, 0, 0, 0, 0, 0, 0, 0, 0⟩, .windowClear 0, .windowList,
    .memoryRead 0 0, .memoryWrite 0, .memoryFill 0 0 0, .refreshSet 0 0, .channelSet ⟨0, 0, 0, 0, 0, 0, 0, 0, 0⟩,
    .channelStage ⟨0, 0, 0, 0⟩, .channelQuiesce 0, .lineSet ⟨0, 0, 0, 0, .absent⟩, .lineEnd 0,
    .watchSet ⟨0, 0, 0, Vector.replicate 8 ⟨0, 0, 0, 0, 0, 0⟩⟩, .watchStart, .watchStop, .watchRead, .queuePause,
    .queueResume, .queueFlush, .queueCancel 0, .read card, .write card 0, .modify card 0 0,
    .transfer ⟨0, 0, 0, 0, 0, 0, 0, 0, 0⟩, .scan ⟨0, 0, 0, 0, 0, 0, 0, 0, 0, 0, 0⟩,
    .compare ⟨0, 0, 0, 0, 0, 0, 0, 0, 0⟩,
    .delay 0, .await 0 0, .slotReset 0]

/-- A kind byte that is no request's selects nothing. -/
theorem takeBody_unlisted {k : Byte} (h : ∀ b : RequestBody, b.kind ≠ k) (l : List Byte) : takeBody k l = none := by
  have other : ∀ b ∈ RequestBody.listed, k.toNat ≠ b.kind.toNat := fun b _ e => h b (BitVec.eq_of_toNat_eq e.symm)
  simp only [RequestBody.listed, List.forall_mem_cons, RequestBody.kind] at other
  unfold takeBody
  split
  case h_33 => rfl
  all_goals
    rename_i e
    simp [e] at other

theorem takeBody_listed (b : RequestBody) (l : List Byte) : ∃ fixed, takeBody b.kind l = some fixed := by
  cases b <;> exact ⟨_, rfl⟩

theorem takeLine_short {l : List Byte} (h : l.length < 5) : takeLine l = none := by
  refine Option.eq_none_iff_forall_ne_some.mpr fun ⟨f, m⟩ hf => ?_
  simp only [takeLine, takeAction, Option.bind_eq_bind, Option.bind_eq_some_iff, Prod.exists] at hf
  obtain ⟨_, _, h1, _, _, h2, _, _, h3, _, _, h4, _, _, ⟨_, _, h5, _⟩, _⟩ := hf
  have := take1_length h1
  have := take1_length h2
  have := take1_length h3
  have := take1_length h4
  have := take1_length h5
  omega

/-! ### The checks of a transfer, in their order -/

/-- Steps 3 to 5 of R163: the kind, the code, the fixed part. -/
def frameBody (kind code : Byte) (tag : Word) (body : List Byte) : Framed :=
  match takeBody kind body with
  | none => .refused ⟨kind ||| 0x80, .badKind, tag⟩
  | some fixed =>
    if code ≠ 0 then .refused ⟨kind ||| 0x80, .badField, tag⟩
    else
      match fixed with
      | none => .refused ⟨kind ||| 0x80, .badLength, tag⟩
      | some (b, data) => .request ⟨tag, b, data⟩

section
variable {kind code : Byte} {tag : Word} {body : List Byte}

theorem frameBody_badKind (h : takeBody kind body = none) :
    frameBody kind code tag body = .refused ⟨kind ||| 0x80, .badKind, tag⟩ := by
  simp only [frameBody, h]

theorem frameBody_badField {fixed : Option (RequestBody × List Byte)} (h : takeBody kind body = some fixed)
    (hc : code ≠ 0) : frameBody kind code tag body = .refused ⟨kind ||| 0x80, .badField, tag⟩ := by
  simp only [frameBody, h, if_pos hc]

theorem frameBody_badLength (h : takeBody kind body = some none) :
    frameBody kind 0 tag body = .refused ⟨kind ||| 0x80, .badLength, tag⟩ := by
  simp only [frameBody, h, ne_eq, not_true_eq_false, if_false]

theorem frameBody_request {b : RequestBody} {data : List Byte} (h : takeBody kind body = some (some (b, data))) :
    frameBody kind 0 tag body = .request ⟨tag, b, data⟩ := by
  simp only [frameBody, h, ne_eq, not_true_eq_false, if_false]
end

theorem frame_short {l : List Byte} (h : l.length < 6) : frame l = .refused ⟨0x80, .badLength, 0⟩ := by
  unfold frame
  split
  · simp only [List.length_cons] at h
    omega
  · rfl

/-- The length field and the size of a transfer (steps 1 and 2 of R163). -/
def LengthOk (l0 l1 : Byte) (transfer : List Byte) : Prop :=
  (l1 ++ l0 : Word).toNat = transfer.length ∧ transfer.length ≤ 1100

section
variable {l0 l1 kind code t0 t1 : Byte} {body : List Byte}

theorem frame_badLength (h : ¬ LengthOk l0 l1 (l0 :: l1 :: kind :: code :: t0 :: t1 :: body)) :
    frame (l0 :: l1 :: kind :: code :: t0 :: t1 :: body) = .refused ⟨kind ||| 0x80, .badLength, t1 ++ t0⟩ := by
  refine if_pos (Decidable.byContradiction fun ok => h ?_)
  simp only [not_or, not_not, not_lt] at ok
  obtain ⟨field, _, most⟩ := ok
  exact ⟨field, most⟩

theorem frame_lengthOk (h : LengthOk l0 l1 (l0 :: l1 :: kind :: code :: t0 :: t1 :: body)) :
    frame (l0 :: l1 :: kind :: code :: t0 :: t1 :: body) = frameBody kind code (t1 ++ t0) body := by
  obtain ⟨field, most⟩ := h
  refine if_neg ?_
  rintro (other | few | many)
  · exact other field
  · simp only [List.length_cons] at few
    omega
  · exact Nat.not_lt.mpr most many
end
end Sys2Proof

namespace Sys2Proof.Machine

/-- A transfer that fails framing is answered by a reply of the header alone. -/
theorem exec_refusedAtFraming {transfer : List Byte} {r : FramingRefusal} {s : State}
    (hr : frame transfer = .refused r) (h : s.Listening) :
    exec (.requestRefusedAtFraming transfer) s = .next (s.replied ⟨r.kind, r.status, r.tag, .none⟩) := by
  have arrives : s.arrive (frame transfer) = s.replied ⟨r.kind, r.status, r.tag, .none⟩ := by
    rw [hr, h.arrive (.refused r) h.noneWaiting]
    exact State.takeMessage_replied h _ s rfl
  exact congrArg _ arrives

/-- Settles O11: the checks of size and length field, then those of the body (`frameBody`), in their order. -/
theorem framingChecksInOrder : Obligations.FramingChecksInOrder := by
  refine ⟨⟨fun l => frame_short, fun l0 l1 kind code t0 t1 body =>
    ⟨frame_badLength, fun ok unlisted => ?_, fun ok ⟨b, hb⟩ hc => ?_, fun ok hc b hb hl short => ?_,
      fun ok hc hk short => ?_⟩⟩, fun transfer r s => exec_refusedAtFraming⟩
  · exact (frame_lengthOk ok).trans (frameBody_badKind (takeBody_unlisted unlisted body))
  · obtain ⟨fixed, listed⟩ := takeBody_listed b body
    exact (frame_lengthOk ok).trans (frameBody_badField (hb ▸ listed) hc)
  · subst hc
    exact (frame_lengthOk ok).trans (frameBody_badLength (hb ▸ takeBody_short b hl body short))
  · subst hc hk
    have reads : takeBody 0x30 body = some ((takeLine body).map fun (f, l) => (.lineSet f, l)) := rfl
    have unread : takeBody 0x30 body = some none := by rw [reads, takeLine_short short, Option.map_none]
    exact (frame_lengthOk ok).trans (frameBody_badLength unread)

end Sys2Proof.Machine
end

/-! ## Requests, laid out and read back (R174) -/
section
namespace Sys2Proof

/-! ### Fields, little-endian -/

theorem extract_low {n : Nat} (a : Byte) (x : BitVec n) : (x ++ a).extractLsb' 0 8 = a := by
  ext i hi
  simp [BitVec.getElem_extractLsb', BitVec.getLsbD_append, hi]

theorem extract_high {n : Nat} (a : Byte) (x : BitVec n) (k : Nat) :
    (x ++ a).extractLsb' (k + 8) 8 = x.extractLsb' k 8 := by
  ext i hi
  simp [BitVec.getElem_extractLsb', BitVec.getLsbD_append]
  grind

theorem bytes2_append (a b : Byte) : bytes2 (b ++ a) = [a, b] := by
  simp [bytes2, extract_low, extract_high _ _ 0]

theorem bytes3_append (a b c : Byte) : bytes3 (c ++ b ++ a) = [a, b, c] := by
  simp [bytes3, extract_low, extract_high _ _ 0, extract_high _ _ 8]

theorem bytes4_append (a b c d : Byte) : bytes4 (d ++ c ++ b ++ a) = [a, b, c, d] := by
  simp [bytes4, extract_low, extract_high _ _ 0, extract_high _ _ 8, extract_high _ _ 16]
theorem bytes2_rejoined (x : Word) : x.extractLsb' 8 8 ++ x.extractLsb' 0 8 = x :=
  (Prod.mk.inj (Option.some.inj (take2_bytes2 x []))).1

/-! ### A whole request -/

/-- A request as a list: its header, then its fixed part and data. -/
theorem encodeRequest_cons (r : HostRequest) :
    let length : Word := BitVec.ofNat 16 (6 + (r.body.bytes ++ r.data).length)
    encodeRequest r = length.extractLsb' 0 8 :: length.extractLsb' 8 8 :: r.body.kind :: 0x00 ::
      r.tag.extractLsb' 0 8 :: r.tag.extractLsb' 8 8 :: (r.body.bytes ++ r.data) := rfl

/-- A well-formed request fits the link, so its length field is its size. -/
theorem lengthOk_encodeRequest {r : HostRequest} (h : r.wf = true) :
    let length : Word := BitVec.ofNat 16 (6 + (r.body.bytes ++ r.data).length)
    LengthOk (length.extractLsb' 0 8) (length.extractLsb' 8 8) (encodeRequest r) := by
  intro length
  have fits : 6 + (r.body.bytes ++ r.data).length ≤ 1100 := by
    rw [List.length_append, r.body.bytes_length, ← Nat.add_assoc]
    exact Machine.HostRequest.length_le h
  have size : (encodeRequest r).length = 6 + (r.body.bytes ++ r.data).length := by
    simp only [encodeRequest_cons, List.length_cons]
    omega
  refine ⟨?_, size ▸ fits⟩
  rw [bytes2_rejoined, size, BitVec.toNat_ofNat]
  omega

/-- What the encoder lays out the framing reads back: the length field, the kind and the code pass their checks, and
the reader of the kind reads its own layout (`takeBody_bytes`). -/
theorem frame_encodeRequest {r : HostRequest} (h : r.wf = true) : frame (encodeRequest r) = .request r := by
  have bodyWf : r.body.wf = true := by
    rw [HostRequest.wf, Bool.and_eq_true] at h
    exact h.2
  refine (frame_lengthOk (lengthOk_encodeRequest h)).trans ?_
  rw [bytes2_rejoined]
  exact frameBody_request (takeBody_bytes r.body bodyWf r.data)

/-- A request is its header, then its fixed part, then its data. -/
theorem encodeRequest_laid {b : RequestBody} {kind : Byte} {body : List Byte} (hk : b.kind = kind) (hb : b.bytes = body)
    (tag : Word) (data : List Byte) : encodeRequest ⟨tag, b, data⟩ =
      bytes2 (BitVec.ofNat 16 (6 + body.length + data.length)) ++ [kind, 0x00] ++ bytes2 tag ++ body ++ data := by
  subst hk hb
  rw [encodeRequest, List.length_append, ← Nat.add_assoc, List.append_assoc _ b.bytes]

end Sys2Proof
end

/-! ## What the B16 sends, laid out (R113, R133, R149, R168, R169, R174) -/
section
namespace Sys2Proof.Machine

/-! ### Bodies of a fixed length -/

theorem length_flatMap_const {α β : Type} {k : Nat} (f : α → List β) (hf : ∀ a, (f a).length = k) (l : List α) :
    (l.flatMap f).length = l.length * k := by
  induction l with
  | nil => simp
  | cons a l ih => rw [List.flatMap_cons, List.length_append, hf, ih, List.length_cons, Nat.succ_mul, Nat.add_comm]

theorem Reading.bytes_length (r : Reading) : r.bytes.length = 3 := by cases r <;> rfl

theorem windowBytes_length (o : Option Window) : (windowBytes o).length = 13 := by cases o <;> rfl

theorem ChannelReport.bytes_length (r : ChannelReport) : r.bytes.length = 5 := rfl

theorem activeBytes_length (a : Option ActiveReport) : (activeBytes a).length = 15 := by cases a <;> rfl

theorem StatusReport.bytes_length (r : StatusReport) : r.bytes.length = 62 := by
  have channels := length_flatMap_const ChannelReport.bytes ChannelReport.bytes_length r.channels.toList
  have lines := length_flatMap_const (k := 2) (fun l : LineReport => [l.state.byte, boolByte l.again]) (fun _ => rfl)
    r.lines.toList
  simp only [Vector.length_toList] at channels lines
  simp only [StatusReport.bytes, List.length_append, activeBytes_length, channels, lines]
  rfl

/-- An entry of WatchRead: held, fault kind, value; zeros when the snapshot holds nothing (log 26). -/
def heldBytes : Option Reading → List Byte
  | some r => [1] ++ r.bytes
  | none => List.replicate 4 0

theorem heldBytes_length (o : Option Reading) : (heldBytes o).length = 4 := by
  rcases o with _ | r
  · rfl
  · exact congrArg (· + 1) r.bytes_length

theorem layout_watchRead (st : WatchState) (count : BitVec 32) (snap : Option (Vector (Option Reading) 8)) :
    (ReplyBody.watchRead st count snap).layout = [st.byte] ++ bytes4 count ++ [boolByte snap.isSome] ++
      (snap.getD readingsNone).toList.flatMap heldBytes := rfl

theorem layout_watchRead_length (st : WatchState) (count : BitVec 32) (snap : Option (Vector (Option Reading) 8)) :
    (ReplyBody.watchRead st count snap).layout.length = 38 := by
  have held := length_flatMap_const heldBytes heldBytes_length (snap.getD readingsNone).toList
  rw [Vector.length_toList] at held
  rw [layout_watchRead, List.length_append, held]
  rfl

/-! ### The changed set of a WATCH notice (R149) -/

theorem getLsbD_boolByte_shift (b : Bool) (i j : Fin 8) :
    (boolByte b <<< i.val).getLsbD j.val = (b && i == j) := by
  revert b i j; decide

theorem getLsbD_changedByte (v : Vector Bool 8) (j : Fin 8) : (changedByte v).getLsbD j.val = v[j.val] := by
  have bits (l : List (Fin 8)) (acc : Byte) :
      (l.foldl (fun b i => b ||| (boolByte v[i.val] <<< i.val)) acc).getLsbD j.val =
        (acc.getLsbD j.val || l.any fun i => v[i.val] && i == j) := by
    induction l generalizing acc with
    | nil => simp
    | cons i l ih => rw [List.foldl_cons, ih, BitVec.getLsbD_or, getLsbD_boolByte_shift, List.any_cons, Bool.or_assoc]
  have zero : (0 : Byte).getLsbD j.val = false := BitVec.getLsbD_zero
  rw [changedByte, bits, zero, Bool.false_or, Bool.eq_iff_iff, List.any_eq_true]
  constructor
  · rintro ⟨i, -, hi⟩
    obtain ⟨hv, rfl⟩ : v[i.val] = true ∧ i = j := by simpa using hi
    exact hv
  · intro hv
    exact ⟨j, List.mem_finRange j, by simp [hv]⟩

/-! ### Failures and results (R13, R53, R113) -/

/-- The failing address of a record and its `partial` flag; zeros without fail details. -/
def failDetails : Option FailRecord → List Byte
  | some ⟨_, some (sp, a), part⟩ => [1, spaceByte sp] ++ bytes3 (BitVec.ofInt 24 a) ++ [boolByte part]
  | some ⟨_, none, part⟩ => [0, 0, 0, 0, 0, boolByte part]
  | none => [0, 0, 0, 0, 0, 0]

/-- A progress: elements done, card pointer, memory pointer. -/
def progressBytes (p : Progress) : List Byte := nat4 p.done ++ nat3 p.card ++ pointer4 p.mem

theorem commonBytes_eq (p : Progress) (f : Option FailRecord) :
    commonBytes p f = progressBytes p ++ [faultByte (f.map fun r => r.kind)] ++ failDetails f := by
  rcases f with _ | ⟨k, _ | ⟨sp, a⟩, part⟩ <;> rfl

/-- The status of an action's run by its failure. -/
def ActionStatus.ofFail : Option FailRecord → ActionStatus
  | .some f => .failed f
  | .none => .ok

theorem LineBody.bytes_run (n : Fin 8) (edges : Nat) (st : Option FailRecord) (r : RunResult) (lost : Bool) :
    LineBody.bytes ⟨n, edges, ActionStatus.ofFail st, some r, lost⟩ =
      [byteOf n, byteOf edges, faultByte (st.map fun f => f.kind), boolByte lost] ++ failDetails st ++ [r.kind] ++
        progressBytes r.progress ++ resultBytes r.kind r.result := by
  rcases st with _ | ⟨k, _ | ⟨sp, a⟩, part⟩ <;> rfl

/-- Two flags in a byte: as three of which the third is clear. -/
theorem twoFlags_eq (a b : Bool) : boolByte a ||| (boolByte b <<< 1) = channelFlags a b false := by
  cases a <;> cases b <;> rfl

theorem resultBytes_read (g : Gathered) : resultBytes 0x50 g = valueField g.values := rfl

theorem resultBytes_modify (g : Gathered) : resultBytes 0x52 g = valuesField g.values := rfl

theorem resultBytes_scan (g : Gathered) :
    resultBytes 0x54 g = channelFlags g.matched g.exhausted false :: valueField g.values :=
  congrArg (· :: valueField g.values) (twoFlags_eq g.matched g.exhausted)

theorem resultBytes_compare (g : Gathered) :
    resultBytes 0x55 g = channelFlags g.matched g.exhausted false :: valuesField g.values :=
  congrArg (· :: valuesField g.values) (twoFlags_eq g.matched g.exhausted)

end Sys2Proof.Machine

namespace Sys2Proof

open Machine

/-- The entry slots of a WatchSet, one after another. -/
theorem WatchFields.bytes_eq (f : WatchFields) : f.bytes = [f.mode] ++ bytes2 f.interval ++ [f.trigger] ++
    (List.finRange 8).flatMap fun i => f.slots[i.val].bytes := by
  have order : List.finRange 8 = [0, 1, 2, 3, 4, 5, 6, 7] := by decide
  rw [order]
  simp only [WatchFields.bytes, List.flatMap_cons, List.flatMap_nil, List.append_nil, List.append_assoc]
  rfl

theorem LineFields.bytes_eq (f : LineFields) : f.bytes = [f.line, f.role, f.mode, f.service] ++
    (match f.action with
    | .absent => [0x00]
    | .read c => 0x50 :: c.bytes
    | .write c v => 0x51 :: c.bytes ++ bytes2 v
    | .modify c x o => 0x52 :: c.bytes ++ bytes2 x ++ bytes2 o
    | .transfer f => 0x53 :: f.bytes
    | .scan f => 0x54 :: f.bytes
    | .unlisted k => [k]) := by
  rw [LineFields.bytes]
  cases f.action <;> rfl

/-- Settles O12: requests by `frame_encodeRequest` and the layout of each kind, messages field by field; the entries of
a list have one length (`length_flatMap_const`), the changed set is read bit by bit (`getLsbD_changedByte`). -/
theorem framingReadsWhatIsEncoded : Obligations.FramingReadsWhatIsEncoded := by
  refine ⟨fun r => frame_encodeRequest, ⟨bytes2_append, bytes3_append, bytes4_append⟩, ?_⟩
  intro laid window card move scan action watched
  refine ⟨?_, ?_⟩
  · have of {b : RequestBody} {kind : Byte} {body : List Byte} (hk : b.kind = kind) (hb : b.bytes = body) :
        laid kind b body := encodeRequest_laid hk hb
    exact ⟨of rfl rfl, of rfl rfl, of rfl rfl, fun _ => of rfl rfl, fun _ => of rfl rfl, of rfl rfl,
      fun _ _ => of rfl rfl, fun _ => of rfl rfl, fun _ _ _ => of rfl rfl, fun _ _ => of rfl rfl,
      fun _ => of rfl rfl, fun _ => of rfl rfl, fun _ => of rfl rfl, fun f => of rfl f.bytes_eq,
      fun _ => of rfl rfl, fun f => of rfl f.bytes_eq, of rfl rfl, of rfl rfl, of rfl rfl, of rfl rfl,
      of rfl rfl, of rfl rfl, fun _ => of rfl rfl, fun _ => of rfl rfl, fun _ _ => of rfl rfl,
      fun _ _ _ => of rfl rfl, fun _ => of rfl rfl, fun _ => of rfl rfl, fun _ => of rfl rfl,
      fun _ => of rfl rfl, fun _ _ => of rfl rfl, fun _ => of rfl rfl⟩
  intro n1 n2 n3 n4 flag flags reading failAt run
  have details (f : Option FailRecord) : failAt f = failDetails f := by
    rcases f with _ | ⟨k, _ | ⟨sp, a⟩, part⟩ <;> rfl
  refine ⟨⟨fun _ => rfl, fun _ => rfl⟩, ?_, ?_, ?_, ?_, ?_, ?_, ?_, ?_, ?_⟩
  · refine ⟨rfl, rfl, rfl, fun _ => rfl, fun _ => rfl, rfl, rfl, rfl, rfl, rfl, rfl, rfl, rfl, rfl⟩
  · refine ⟨rfl, fun _ => rfl, fun _ _ => rfl, fun _ => rfl, fun _ => rfl, fun _ => rfl, fun _ => rfl, rfl,
      fun _ _ => rfl, fun _ => rfl, fun _ => rfl, fun w => ⟨?_, ?_⟩, fun st count snap => ⟨?_, ?_⟩, fun r => ⟨?_, ?_⟩⟩
    · have entries := length_flatMap_const windowBytes windowBytes_length w.toList
      rwa [Vector.length_toList] at entries
    · exact congrArg w.toList.flatMap (funext fun o => by cases o <;> rfl)
    · exact layout_watchRead_length st count snap
    · rw [layout_watchRead]
      refine congrArg ([st.byte] ++ bytes4 count ++ [boolByte snap.isSome] ++ ·) ?_
      refine congrArg (snap.getD readingsNone).toList.flatMap (funext fun o => ?_)
      rcases o with _ | _ | _ <;> rfl
    · exact r.bytes_length
    · show r.bytes = _
      rw [StatusReport.bytes, twoFlags_eq]
      cases r.active <;> rfl
  · refine ⟨fun e => ?_, fun g => ⟨?_, ?_, rfl, ?_, ?_, ?_⟩, fun _ => rfl, fun _ _ => rfl, fun _ _ _ => rfl,
      fun _ _ _ _ _ => rfl, fun _ _ _ _ _ _ _ _ => rfl, fun _ _ _ _ _ _ _ => rfl, fun _ => rfl, fun _ _ => rfl,
      fun _ => rfl⟩
    · show commonBytes e.progress e.fail ++ _ = _ ++ failAt e.fail ++ _
      rw [commonBytes_eq, details]
      rfl
    · rw [resultBytes_read]
      cases g.values <;> rfl
    · rw [resultBytes_modify]
      cases g.values <;> rfl
    · rw [resultBytes_scan]
      cases g.values <;> rfl
    · rw [resultBytes_compare]
      cases g.values <;> rfl
    · simp [resultBytes]
  · exact fun n edges lost => rfl
  · intro n edges st r lost
    rw [details]
    refine Eq.trans ?_ (LineBody.bytes_run n edges st r lost)
    cases st <;> rfl
  · exact fun _ => rfl
  · refine fun b => ⟨changedByte b.changed, getLsbD_changedByte b.changed, fun i =>
      [Config.unheldWatchFault b.passCount.toNat i] ++ bytes2 (Config.unheldWatchValue b.passCount.toNat i),
      fun _ => rfl, ?_⟩
    refine (congrArg (bytes4 b.passCount ++ [changedByte b.changed] ++ ·) ?_ : b.bytes = _)
    refine congrArg (List.finRange 8).flatMap (funext fun i => ?_)
    rcases b.values[i.val] with _ | _ | _ <;> rfl
  · rintro ⟨sp, a, owner⟩
    cases owner <;> rfl
  · exact fun _ => rfl

end Sys2Proof
end

/-! ## The link reset, block by block (R37, R47, R66, R68, R115, R118, R119, R138, R140, R153, R159, R172) -/
section
namespace Sys2Proof.Machine

variable {s : State}

/-! ### The order of its parts (log 13) -/

/-- The link, the memory port and the notices as the reset leaves them, before it reaches the lines. -/
def State.linkDetached (s : State) : State :=
  ((s.setLink s.link.detach).setPort s.port.dropLink).setNotices []

/-- Then the lines and the request queue. -/
def State.linesReset (s : State) : State :=
  ((List.finRange 8).foldl State.lineLinkReset s.linkDetached).queueLinkReset

/-- Then the channels. -/
def State.channelsReset (s : State) : State := (List.finRange 4).foldl State.quiesceChannel s.linesReset

theorem State.linkReset_detached (h : s.link.state = .detached) : s.linkReset = s := by
  simp only [State.linkReset, h]

/-- The watch unit comes last; then the blocks settle. -/
theorem State.linkReset_configured (h : s.link.state = .configured) :
    s.linkReset = s.channelsReset.watchLinkReset.settleBlocks := by
  simp only [State.linkReset, h]
  rfl

/-! ### Lines and request queue -/

/-- The line after the reset, its event taken when it is due. -/
def Line.afterLinkReset (l : Line) (sreset : SReset) : Line :=
  if l.resetEvent sreset then l.released.taken else l.released

/-- The notice of a line that takes its event without an action. -/
def Line.resetNotice (n : Fin 8) (l : Line) : Notice :=
  ⟨.line n, 1, .line ⟨n, min 255 (l.edges + 1), .none, none, false⟩⟩

/-- SRESET after the reset: that of a SlotReset is released. -/
def SReset.afterLinkReset : SReset → SReset
  | .slotReset => .released
  | .released => .released
  | .powerOn => .powerOn

/-- An element of an entry is carried on as an orphan. -/
def Element.afterLinkReset (e : Element) : Element := if e.item = .entry then { e with item := .orphan } else e

theorem flatMap_if_singleton {α β : Type} (p : α → Bool) (f : α → β) (l : List α) :
    (l.flatMap fun a => if p a then [f a] else []) = (l.filter p).map f := by
  induction l with
  | nil => rfl
  | cons a l ih => cases h : p a <;> simp [h, ih]

theorem Line.released_frame (l : Line) :
    l.released.action = l.action ∧ l.released.edges = l.edges ∧ l.released.service = l.service := by
  cases h : l.state <;> simp [Line.released, h]

theorem Line.released_noticed (n : Fin 8) (l : Line) (b : Bool) :
    (if b then l.released.noticed n else []) = if b && l.action.isNone then [l.resetNotice n] else [] := by
  obtain ⟨action, edges, -⟩ := l.released_frame
  cases b <;> cases h : l.action <;> simp [Line.noticed, Line.resetNotice, action, edges, h]

theorem State.linesReset_eq (s : State) : s.linesReset = s.linkDetached.withReset
    (Vector.ofFn fun n => (s.line n).afterLinkReset s.sreset)
    (((List.finRange 8).filter fun n => (s.line n).resetEvent s.sreset && (s.line n).action.isNone).map fun n =>
      (s.line n).resetNotice n)
    (s.engine.element.map Element.afterLinkReset) s.sreset.afterLinkReset := by
  rw [← flatMap_if_singleton]
  simp only [← Line.released_noticed]
  exact s.linkDetached.linesAtLinkReset rfl

theorem Line.afterLinkReset_released {l : Line} {r : SReset} (h : l.resetEvent r = false)
    (hs : l.state = .inService ∨ l.state = .faulted) :
    l.afterLinkReset r = { l with state := .idle, again := false } := by
  rw [Line.afterLinkReset, h]
  rcases hs with hs | hs <;> simp [Line.released, hs]

theorem Line.afterLinkReset_unchanged {l : Line} {r : SReset} (h : l.resetEvent r = false) (hi : l.state ≠ .inService)
    (hf : l.state ≠ .faulted) : l.afterLinkReset r = l := by
  rw [Line.afterLinkReset, h]
  cases hs : l.state with
  | inService => exact absurd hs hi
  | faulted => exact absurd hs hf
  | _ => simp [Line.released, hs]

/-- A line that takes its event is IDLE by then; `again` is kept of a line that was IDLE before (R119). -/
theorem Line.released_event {l : Line} {r : SReset} (h : l.resetEvent r = true) :
    l.released = { l with state := .idle, again := l.again && l.state == .idle } := by
  obtain ⟨role, mode, service, action, state, again, edges, level, progress, result, interval⟩ := l
  cases state <;> simp [Line.resetEvent] at h <;> simp [Line.released]

theorem Line.taken_action {l : Line} (h : l.action ≠ none) :
    l.taken = { l with state := .pending, edges := min 255 (l.edges + 1) } := by
  obtain ⟨op, hop⟩ := Option.ne_none_iff_exists'.mp h
  simp only [Line.taken, hop]

theorem Line.taken_notice {l : Line} (h : l.action = none) :
    l.taken = { l with state := l.service.afterNotice, edges := 0 } := by
  simp only [Line.taken, h]
  rfl

theorem Line.afterLinkReset_pending {l : Line} {r : SReset} (h : l.resetEvent r = true) (ha : l.action ≠ none) :
    l.afterLinkReset r =
      { l with state := .pending, again := l.again && l.state == .idle, edges := min 255 (l.edges + 1) } := by
  obtain ⟨action, -⟩ := l.released_frame
  rw [Line.afterLinkReset, if_pos h, Line.taken_action (action ▸ ha), Line.released_event h]

theorem Line.afterLinkReset_notice {l : Line} {r : SReset} (h : l.resetEvent r = true) (ha : l.action = none) :
    l.afterLinkReset r =
      { l with state := l.service.afterNotice, again := l.again && l.state == .idle, edges := 0 } := by
  obtain ⟨action, -⟩ := l.released_frame
  rw [Line.afterLinkReset, if_pos h, Line.taken_notice (action ▸ ha), Line.released_event h]

/-! ### Channels -/

theorem State.link_linesReset (s : State) : s.linesReset.link = s.link.detach := by
  rw [State.linesReset_eq]
  rfl

theorem State.channelsReset_reached (s : State) :
    ChannelsReached Channel.stopTaken (List.finRange 4) s.linesReset s.channelsReset := by
  have idle {t : State} (h : t.link.slot = .empty) : ∀ n k tag, t.link.slot ≠ .working (.quiesce n) k tag := by
    simp [h]
  have stop (t : State) (n : Fin 4) (h : t.link.slot = .empty) := t.quiesceChannel_eq n (idle h n)
  refine State.foldl_channels (fun t => t.link.slot = .empty) _ _ (fun t n h => ?_) stop _ _ ?_ (List.nodup_finRange 4)
  · rw [stop t n h, State.link_setChannel]
    split
    · rw [State.link_grantGone, h]
    · exact h
  · rw [State.link_linesReset]
    rfl

/-- The record of a channel after a quiesce without a reply, by its state (R138). -/
theorem Channel.stopTaken_cases (c : Channel) :
    (c.state = .moving → c.stopTaken = { c with quiescing := true }) ∧
    ∀ st : ChannelState, (c.state = .off ∧ st = .off) ∨
      ((c.state = .idle ∨ c.state = .ready ∨ c.state = .faulted) ∧ st = .idle) ∨
      (c.state = .waiting ∧ st = if c.sreq then .heldOff else .idle) ∨
      ((c.state = .master ∨ c.state = .heldOff) ∧ st = .heldOff) →
      c.stopTaken = ⟨c.config, none, none, st, 0, false, false, false, none,
        if c.state = .master then none else c.tenureTimer, c.sreq, false, false⟩ := by
  cases hs : c.state <;> simp [Channel.stopTaken, Channel.cleared, Channel.quiesced, hs]

/-! ### The watch unit -/

theorem State.watchLinkReset_eq (s : State) :
    s.watchLinkReset = (s.setWatch { s.watch.passDiscarded s.watchReadRunning with
        state := .stopped, stopping := false, rest := none }).setPort
      { s.port with watch := if s.watch.read = none ∨ s.watchReadRunning = true then s.port.watch else none } := by
  rw [State.watchLinkReset, State.discardPass_eq]
  rfl

/-- A turn of the link side that goes on without an owner is the watch unit's neither before nor after. -/
theorem State.watchReadRunning_linkDetached (s : State) : s.linkDetached.watchReadRunning = s.watchReadRunning := by
  have turn : s.linkDetached.port.turn =
    s.port.turn.map fun u => if u.requester = .link then { u with requester := .orphan } else u := rfl
  have group : s.linkDetached.bus.group = s.bus.group := rfl
  rw [State.watchReadRunning, State.watchReadRunning, turn, group]
  cases s.port.turn with
  | none => rfl
  | some u =>
    by_cases h : u.requester = .link
    · simp only [Option.map_some, h, if_true]
      rfl
    · simp only [Option.map_some, h, if_false]

theorem State.watchReadRunning_channelsReset (s : State) : s.channelsReset.watchReadRunning = s.watchReadRunning := by
  rw [s.channelsReset_reached.grants.running, State.linesReset_eq]
  exact s.watchReadRunning_linkDetached

/-- The withdrawal of grants says nothing of the link-side request, the lines, the queue or the watch unit. -/
theorem GrantsWithdrawn.atLinkReset {ls : Vector Line 8} {ns : List Notice} {el : Option Element} {r : SReset}
    {t : State} (h : GrantsWithdrawn (s.linkDetached.withReset ls ns el r) t) (w : Watch) (unit : Option MemUnit) :
    GrantsWithdrawn (s.setPort { s.port with
        turn := s.port.turn.map fun u => if u.requester = .link then { u with requester := .orphan } else u })
      ((t.setWatch w).setPort { t.port with watch := unit }) :=
  ⟨h.bus, h.noTenure, h.tenure, h.cycleOver, h.cycleGoesOn⟩

/-- Settles O8: the channels are reached from the state in which the lines and the queue have been
(`State.linesReset_eq`), the watch unit from the state after them; every record but those of the reset's parts is carried through. -/
theorem linkResetReachesEveryBlock : Obligations.LinkResetReachesEveryBlock := by
  refine ⟨fun s h => congrArg _ (State.linkReset_detached h), fun s h => ⟨s.channelsReset.watchLinkReset,
    congrArg Host.Outcome.next (State.linkReset_configured h), ?_⟩⟩
  have reached := s.channelsReset_reached
  have running := s.watchReadRunning_channelsReset
  rw [State.watchLinkReset_eq, running]
  rw [State.linesReset_eq] at reached
  generalize s.channelsReset = u at reached
  have kept {α : Type} (f : State → α) := congrArg f reached.rest
  have port {α : Type} (f : Port → α) := congrArg f reached.port
  have channel (n : Fin 4) : u.channel n = (s.channel n).stopTaken := reached.channel n
  have watch : u.watch = s.watch := kept State.watch
  have unit : u.port.watch = s.port.watch := port Port.watch
  have line (n : Fin 8) : u.line n = (s.line n).afterLinkReset s.sreset :=
    (kept (·.line n)).trans (State.line_setLines_ofFn s _ n)
  rw [watch, unit]
  refine ⟨kept State.link, kept State.queue, kept State.engine, kept State.sreset, kept State.pending,
    kept State.windows, kept State.sfault, kept State.refresh, kept State.mem, kept State.free, port Port.link,
    port Port.last, port Port.engine, rfl, reached.grants.atLinkReset _ _, rfl,
    fun n => channel n ▸ (s.channel n).stopTaken_cases, fun n => ?_, kept State.notices⟩
  exact ⟨fun hq hs => (line n).trans (Line.afterLinkReset_released hq hs),
    fun hq hi hf => (line n).trans (Line.afterLinkReset_unchanged hq hi hf),
    fun he ha => (line n).trans (Line.afterLinkReset_pending he ha),
    fun he ha => (line n).trans (Line.afterLinkReset_notice he ha)⟩

end Sys2Proof.Machine
end

/-! ## The step and the queue of commands -/
section
namespace Sys2Proof.Machine

/-- The front command runs on the state with the queue's rest. -/
theorem step_of_pending_cons {c : Instr} {rest : List Instr} {s : State} (h : s.pending = c :: rest) :
    step s = exec c (s.setPending rest) := by
  unfold step
  rw [h]

/-- With no command waiting the block settles (log 8). -/
theorem step_of_pending_nil {s : State} (h : s.pending = []) : step s = .next s.settle := by
  unfold step
  rw [h]
  rfl

/-- No command stops or is refused: a request is taken as it arrives, an event has one of its outcomes. -/
theorem exec_answers_next (c : Instr) (s : State) : ∃ t, exec c s = .next t := by
  cases hr : c.request? with
  | some r => exact ⟨_, exec_request hr s⟩
  | none =>
    obtain ⟨t, answer, -⟩ := exec_event hr s
    exact ⟨t, answer⟩

/-- Settles O2: the next state is that of `exec_answers_next`, and among the promises that a command keeps is the queue
of those that wait (`Promises.exec`). -/
theorem everyCommandCompletes : Obligations.EveryCommandCompletes := by
  intro c s
  obtain ⟨t, answer⟩ := exec_answers_next c s
  exact ⟨t, answer, (Promises.exec answer).pending⟩

/-- Settles O1, by the two forms of the queue. -/
theorem stepRunsFrontCommand : Obligations.StepRunsFrontCommand :=
  ⟨fun _ _ _ => step_of_pending_cons, fun _ => step_of_pending_nil⟩

end Sys2Proof.Machine
end
